-- ==== Sys2Proof/Word.lean ====
section
/-! DEFINITION. The bit-vector types of the block (spec 00_scope.md R9, R10). -/

namespace Sys2Proof

/-- `u8` of R10: a data byte, a checksum byte, the CRC accumulator. -/
abbrev Byte := BitVec 8

/-- A 16-bit raw field value `D = (H, L)` (R9, 30_encoding.md R56). -/
abbrev Half := BitVec 16

/-- `u32` of R10: a command word or a register as the host sees it (R9, R41, R55). -/
abbrev Word := BitVec 32

end Sys2Proof
end

