-- ==== Sys2Proof/Syntax.lean ====
section
/-! DEFINITION. The commands of the block as syntax: one constructor per row of spec/opcode_table.json
(30_encoding.md R58). An instruction carries exactly the operand fields its row "reads"; the ignored bits of its word
(R59) are no part of it. -/

namespace Sys2Proof

/-- The commands (30_encoding.md R58). A SCALE or FIELD with a reserved field index 9 to 15 is a word of this type
too (R61): the command itself decides between its effect and ILL (R66). -/
inductive Instr where
  /-- NOP, OP 0x0 (42_control.md R83). -/
  | nop
  /-- CRC_INIT, OP 0x1 (40_crc.md R70). -/
  | crcInit
  /-- CRC_BYTE, OP 0x2: `l` is the byte L (40_crc.md R71). -/
  | crcByte (l : Byte)
  /-- CRC_WORD, OP 0x3: `d` is D = (H, L) (40_crc.md R72). -/
  | crcWord (d : Half)
  /-- CRC_CHECK, OP 0x4: `c` is the transmitted checksum byte C (40_crc.md R73). -/
  | crcCheck (c : Byte)
  /-- SCALE, OP 0x5: field index F and raw value D (41_scale.md R78). -/
  | scale (f : BitVec 4) (d : Half)
  /-- FIELD, OP 0x6: field index F, checksum byte C and data D (41_scale.md R79). -/
  | field (f : BitVec 4) (c : Byte) (d : Half)
  /-- CLEAR, OP 0x7 (42_control.md R84). -/
  | clear
  /-- The reserved opcodes, OP 0x8 to 0xF: `op` is the opcode (30_encoding.md R60, 60_exceptions.md R90). -/
  | reserved (op : BitVec 4)
deriving DecidableEq, Repr

end Sys2Proof
end

