-- ==== Sys2Proof/WellFormed.lean ====
section
/-! DEFINITION. Which terms of `Instr` some 32-bit word stands for. The operand types already have the widths of
30_encoding.md R56; the one check left is that a reserved command carries a reserved opcode (R58, R60). -/

namespace Sys2Proof

/-- The check of one instruction, constructor by constructor (30_encoding.md R58). -/
def Instr.wf : Instr → Bool
  | .nop => true
  | .crcInit => true
  | .crcByte _ => true
  | .crcWord _ => true
  | .crcCheck _ => true
  | .scale _ _ => true
  | .field _ _ _ => true
  | .clear => true
  | .reserved op => decide (8 ≤ op.toNat)

/-- The instruction is the meaning of some command word. -/
abbrev Instr.WellFormed (i : Instr) : Prop := i.wf = true

end Sys2Proof
end

