-- ==== Sys2Proof/Decode.lean ====
section
/-! DEFINITION. From a 32-bit command word to an instruction and back (spec 30_encoding.md R55 to R63). Decoding is
total on words (R63). The block defines no byte order for a word (20_memory.md R46), so the unit decoded is the word of
one CMD write, never a list of bytes. -/

namespace Sys2Proof

/-- `OP = w[31:28]` (R57). -/
def opField (w : Word) : BitVec 4 := w.extractLsb' 28 4

/-- `F = w[27:24]` (R57). -/
def fField (w : Word) : BitVec 4 := w.extractLsb' 24 4

/-- `C = w[23:16]` (R57). -/
def cField (w : Word) : Byte := w.extractLsb' 16 8

/-- `L = w[7:0]` (R57). -/
def lField (w : Word) : Byte := w.extractLsb' 0 8

/-- `D = w[15:0]` (R57). -/
def dField (w : Word) : Half := w.extractLsb' 0 16

/-- The command of a word (R58, R66): the opcode alone picks it, and the fields that R58 does not list are dropped. -/
def decodeWord (w : Word) : Instr :=
  match opField w with
  | 0x0#4 => .nop
  | 0x1#4 => .crcInit
  | 0x2#4 => .crcByte (lField w)
  | 0x3#4 => .crcWord (dField w)
  | 0x4#4 => .crcCheck (cField w)
  | 0x5#4 => .scale (fField w) (dField w)
  | 0x6#4 => .field (fField w) (cField w) (dField w)
  | 0x7#4 => .clear
  | op => .reserved op

/-- Why a string of bits is no command: the one length is 32 bits (R55). -/
inductive DecodeRefusal where
  /-- More bits than one command word holds. -/
  | longerThanOneWord
deriving DecidableEq, Repr

/-- The decoder on any number of bits: `w` numbers them from bit 0, and every bit from `nbits` on counts as 0. Rejects
by name what does not fit one command word (R55). -/
def decodeBits (nbits w : Nat) : Except DecodeRefusal Instr :=
  if 32 < nbits then .error .longerThanOneWord
  else .ok (decodeWord (BitVec.ofNat 32 (w % 2 ^ nbits)))

/-- The host's question: the instruction the decoder reads from `nbits` bits numbered as spec/opcode_table.json
numbers them. -/
def decodeTableWord (nbits w : Nat) : Option Instr :=
  match decodeBits nbits w with
  | .ok i => some i
  | .error _ => none

/-- A word from its fields, most significant first: `OOOO FFFF CCCCCCCC DDDDDDDDDDDDDDDD` (R56). -/
def packWord (op f : BitVec 4) (c : Byte) (d : Half) : Word := op ++ f ++ c ++ d

/-- The canonical word of an instruction: the words of R64, with every ignored bit 0. For a reserved command, the word
whose other bits are 0. -/
def encode : Instr → Word
  | .nop => packWord 0x0#4 0#4 0#8 0#16
  | .crcInit => packWord 0x1#4 0#4 0#8 0#16
  | .crcByte l => packWord 0x2#4 0#4 0#8 (0#8 ++ l)
  | .crcWord d => packWord 0x3#4 0#4 0#8 d
  | .crcCheck c => packWord 0x4#4 0#4 c 0#16
  | .scale f d => packWord 0x5#4 f 0#8 d
  | .field f c d => packWord 0x6#4 f c d
  | .clear => packWord 0x7#4 0#4 0#8 0#16
  | .reserved op => packWord op 0#4 0#8 0#16

end Sys2Proof
end

