-- ==== Sys2Proof/Config.lean ====
section
/-! DEFINITION. The parameters of one built block (spec 00_scope.md R6, R7, R8): its divisor table, its signedness
table and the place of its register window. They are constants of the block, never written (10_state.md R34).
The types admit the legal configurations only, so no invariant about them is needed. Their values are fixed by no
definition here: every statement over a state holds for every configuration. -/

namespace Sys2Proof

/-- An entry of the divisor table: "Each entry must be one of 1, 10, 100 or 200" (00_scope.md R6). -/
inductive Divisor where
  | one
  | ten
  | hundred
  | twoHundred
deriving DecidableEq, Repr

/-- The nine fields of a measurement frame (10_state.md R30), named as the assembler names them (30_encoding.md R64). -/
inductive FieldName where
  | pm1
  | pm2_5
  | pm4
  | pm10
  | rh
  | t
  | voc
  | nox
  | co2
deriving DecidableEq, Repr

/-- A field index 0 to 8 (10_state.md R30). -/
abbrev FieldIndex := Fin 9

/-- The build parameters of a block. -/
structure Config where
  /-- The window's base address is `BASE = 32 * window`: "It must be a multiple of 32. It is left OPEN" (R8). -/
  window   : Nat
  /-- `DIV[0..7]` (R6). `DIV[8]` is fixed at 1 and is no parameter. -/
  divTable : Vector Divisor 8
  /-- `SGN[0..8]` (R7): whether the field's raw value is read as two's complement. -/
  sgnTable : Vector Bool 9
deriving DecidableEq, Repr

/-- Why a set of parameters is no configuration of the block (R6, R8). The spec names no reasons: the three names are the
model's (DESIGN CHOICE; notes/assumptions/11.md). -/
inductive ConfigRefusal where
  /-- `BASE` is no multiple of 32 (R8). -/
  | baseNotMultipleOf32
  /-- A divisor outside 1, 10, 100, 200: "A configuration whose entry is outside {1, 10, 100, 200} is refused" (R6). -/
  | divisorNotInSet
  /-- `DIV[8]` other than 1 (R6: fixed by the source). -/
  | co2DivisorNotOne
deriving DecidableEq, Repr

end Sys2Proof
end

