-- ==== Sys2Proof/Machine/Params.lean ====
section
/-! DEFINITION. Reading the build parameters (spec 00_scope.md R6 to R8; 10_state.md R30): the tables `DIV` and `SGN`
as functions of a field index, `BASE`, the spec's default tables, and the check of a set of parameters. -/

namespace Sys2Proof

/-- The number an entry stands for; "unscaled" is divisor 1 (R6). -/
def Divisor.value : Divisor → Nat
  | .one => 1
  | .ten => 10
  | .hundred => 100
  | .twoHundred => 200

/-- The entry for a number, if it is one of the four R6 allows. -/
def Divisor.ofNat? (n : Nat) : Option Divisor :=
  if n = 1 then some .one
  else if n = 10 then some .ten
  else if n = 100 then some .hundred
  else if n = 200 then some .twoHundred
  else none

/-- The index of a field in the fixed order of R30. -/
def FieldName.index : FieldName → FieldIndex
  | .pm1 => 0
  | .pm2_5 => 1
  | .pm4 => 2
  | .pm10 => 3
  | .rh => 4
  | .t => 5
  | .voc => 6
  | .nox => 7
  | .co2 => 8

/-- `DIV[f]` as a table entry: the parameter for indices 0 to 7, the constant 1 for index 8 (R6). -/
def Config.divEntry (c : Config) (f : FieldIndex) : Divisor :=
  if h : f.val < 8 then c.divTable[f.val] else .one

/-- `DIV[f]` (R6). -/
def Config.divisor (c : Config) (f : FieldIndex) : Nat := (c.divEntry f).value

/-- `SGN[f]` (R7). -/
def Config.isSigned (c : Config) (f : FieldIndex) : Bool := c.sgnTable[f.val]

/-- `BASE`, the host address of register slot 0 (R8). -/
def Config.base (c : Config) : Nat := 32 * c.window

/-- The spec's default tables (R6, R7, R30: the source does not give them). DESIGN CHOICE: `BASE` 0, which R8 leaves
open; see notes/assumptions/2.md. -/
def Config.default : Config where
  window   := 0
  divTable := #v[.ten, .ten, .ten, .ten, .hundred, .twoHundred, .ten, .ten]
  sgnTable := #v[false, false, false, false, true, true, true, true, false]

/-- A configuration from plain numbers: `BASE`, `DIV[0..8]`, `SGN[0..8]`. It refuses what R6 and R8 refuse.
DESIGN CHOICE: where a set is wrong in several ways, BASE is reported first, then the CO2 divisor, then the divisor set;
the spec names no reason and no order (notes/assumptions/11.md). -/
def Config.ofParameters (base : Nat) (div : Vector Nat 9) (sgn : Vector Bool 9) : Except ConfigRefusal Config :=
  if base % 32 ≠ 0 then .error .baseNotMultipleOf32
  else if div[8] ≠ 1 then .error .co2DivisorNotOne
  else
    match Divisor.ofNat? div[0], Divisor.ofNat? div[1], Divisor.ofNat? div[2], Divisor.ofNat? div[3],
      Divisor.ofNat? div[4], Divisor.ofNat? div[5], Divisor.ofNat? div[6], Divisor.ofNat? div[7] with
    | some d0, some d1, some d2, some d3, some d4, some d5, some d6, some d7 =>
      .ok ⟨base / 32, #v[d0, d1, d2, d3, d4, d5, d6, d7], sgn⟩
    | _, _, _, _, _, _, _, _ => .error .divisorNotInSet

end Sys2Proof
end

