-- ==== Sys2Proof/Machine/State.lean ====
section
/-! DEFINITION. The state of the machine (spec 10_state.md R20 to R36): the block's registers, and the model's own
fields around them (the build parameters, the host's accesses still to come, and what the host read last). -/

namespace Sys2Proof.Machine

/-- The STATUS register's fields (10_state.md R24). The host never writes it, so it is held field by field;
`statusWord` (Machine/Flags.lean) is the word the host reads. -/
structure Status where
  /-- MATCH, bit 0: the result of the latest compare (R25). -/
  matched : Bool
  /-- ERR, bit 1, sticky: some compare failed (R26). -/
  err     : Bool
  /-- VALID, bit 2: QUOT, REM and DIVR hold a scaling result (R27). -/
  valid   : Bool
  /-- ILL, bit 3, sticky: a reserved command was written (R28). -/
  ill     : Bool
  /-- LASTF, bits 7:4: the field index of the latest SCALE or FIELD (R29). -/
  lastf   : BitVec 4
deriving DecidableEq, Repr

/-- One thing the outside does to the block: a host access of `width` bytes (20_memory.md R41 to R45; whether the block
accepts it is for the machine to say), or the platform's reset input (70_reset_and_hazards.md R99). -/
inductive HostEvent where
  /-- `MemRead(addr, width)`. -/
  | read (addr width : Nat)
  /-- `MemWrite(addr, width, v)`; a width other than 4 is refused, so the data of the one accepted width is enough. -/
  | write (addr width : Nat) (v : Word)
  /-- The reset event. -/
  | reset
deriving DecidableEq, Repr

/-- The machine. `crc` to `divr` are the architectural state, exactly the registers of 10_state.md R20. -/
structure State where
  /-- The build parameters: constants, which no step writes (R34). The model's own field; notes/assumptions/2.md. -/
  cfg     : Config
  /-- CRC, the accumulator (R22). -/
  crc     : Byte
  /-- STATUS (R24). -/
  status  : Status
  /-- QUOT (R31). -/
  quot    : Word
  /-- REM (R32). -/
  rem     : Word
  /-- DIVR (R33). -/
  divr    : Half
  /-- The host's accesses and reset events not performed yet, oldest first (20_memory.md R51). The model's own field;
  notes/assumptions/1.md. -/
  pending : List HostEvent
  /-- What the latest MemRead returned to the host; none before the first. The model's own field;
  notes/assumptions/4.md. -/
  readout : Option Word
deriving DecidableEq, Repr

/-- The block never traps or stops by itself (60_exceptions.md R87), so nothing raises a fault: the type has no
constructor. Safe: no behaviour is lost. -/
inductive Fault where
deriving DecidableEq, Repr

/-- What the machine has no step for. -/
inductive Refusal where
  /-- An instruction without a meaning: raised by no arm of `exec`. Safe. -/
  | notModelled (mnemonic : String)
  /-- A host access narrower or wider than 4 bytes (20_memory.md R45). Raised by `perform`. Safe: the spec gives it no
  step. -/
  | accessWidth
  /-- A 4-byte host access that does not start in the window (R45). Raised by `perform`. Safe: the spec gives it no
  step. -/
  | outsideWindow
  /-- A 4-byte host access in the window at an offset that is no multiple of 4, one that crosses the window's end among
  them (R45). Raised by `perform`. Safe: the spec gives it no step. -/
  | misaligned
deriving DecidableEq, Repr

/-- A block built with the parameters `c`, right after reset (10_state.md R36), with no access pending. -/
def State.resetWith (c : Config) : State where
  cfg     := c
  crc     := 0xFF#8
  status  := { matched := false, err := false, valid := false, ill := false, lastf := 0#4 }
  quot    := 0#32
  rem     := 0#32
  divr    := 0#16
  pending := []
  readout := none

/-- The machine right after reset (R36), with the spec's default tables (R6, R7) and `BASE` 0 (DESIGN CHOICE,
notes/assumptions/2.md). -/
def State.reset : State := State.resetWith Config.default

end Sys2Proof.Machine
end

