-- ==== Sys2Proof/Machine/Flags.lean ====
section
/-! DEFINITION. The STATUS bits: every way a command changes them, and the word the host reads
(spec 10_state.md R24 to R29, R38). -/

namespace Sys2Proof.Machine

/-- STATUS as read at offset 0x04: bits 31:8 read 0, then LASTF, ILL, VALID, ERR, MATCH (10_state.md R24). -/
def statusWord (st : Status) : Word :=
  0#24 ++ st.lastf ++ BitVec.ofBool st.ill ++ BitVec.ofBool st.valid ++ BitVec.ofBool st.err ++
    BitVec.ofBool st.matched

/-- A compare with result `m`: MATCH takes it, and ERR is set if it failed and unchanged if not (R25, R26). -/
def Status.compared (st : Status) (m : Bool) : Status := { st with matched := m, err := st.err || !m }

/-- VALID <- v (R27). -/
def Status.setValid (st : Status) (v : Bool) : Status := { st with valid := v }

/-- ILL <- 1 (R28). -/
def Status.setIll (st : Status) : Status := { st with ill := true }

/-- LASTF <- f (R29). -/
def Status.setLastf (st : Status) (f : FieldIndex) : Status := { st with lastf := BitVec.ofNat 4 f.val }

/-- Every field 0 (42_control.md R84). -/
def Status.cleared : Status := { matched := false, err := false, valid := false, ill := false, lastf := 0#4 }

end Sys2Proof.Machine
end

