-- ==== Sys2Proof/Machine/Operands.lean ====
section
/-! DEFINITION. The operand forms: the two bytes of a field's data, the legal field indices, the raw value of a field,
and the truncating division (spec 30_encoding.md R56, R57, R61; 41_scale.md R75, R76). -/

namespace Sys2Proof.Machine

/-- `H = D[15:8]`, the first byte of a field on the wire (30_encoding.md R56). -/
def highByte (d : Half) : Byte := d.extractLsb' 8 8

/-- `L = D[7:0]`, the second byte of a field on the wire (30_encoding.md R56). -/
def lowByte (d : Half) : Byte := d.extractLsb' 0 8

/-- The field index an F field names: 0 to 8 are legal, 9 to 15 reserved (30_encoding.md R56, R61). -/
def fieldIndex? (f : BitVec 4) : Option FieldIndex :=
  if h : f.toNat < 9 then some ⟨f.toNat, h⟩ else none

/-- `raw(f, D)`: two's complement if `SGN[f]`, else unsigned (41_scale.md R76). -/
def raw (c : Config) (f : FieldIndex) (d : Half) : Int :=
  if c.isSigned f then
    if 0x8000 ≤ d.toNat then (d.toNat : Int) - 0x10000 else (d.toNat : Int)
  else (d.toNat : Int)

/-- `tdiv(v, n)`, the quotient rounded toward zero, for `n ≥ 1` (41_scale.md R75). `/` on non-negative integers is the
floor. -/
def tdiv (v n : Int) : Int := if 0 ≤ v then v / n else -(-v / n)

/-- `trem(v, n) = v - n * tdiv(v, n)` (41_scale.md R75). -/
def trem (v n : Int) : Int := v - n * tdiv v n

end Sys2Proof.Machine
end

