-- ==== Sys2Proof/Machine/Ops.lean ====
section
/-! DEFINITION. The shared operations of the commands: the CRC algorithm (spec 40_crc.md R67 to R69), the register
writes, the scaling (41_scale.md R77), and raising ILL (60_exceptions.md R91), which is all the block has in the place
of taking an exception: it saves nothing, changes no mode and transfers no control (R94), and nothing is returned from
(R95). -/

namespace Sys2Proof.Machine

/-- The accumulator's initial value (R13, 40_crc.md R68, R70). -/
def crcSeed : Byte := 0xFF#8

/-- One round of R67: shift left, dropping the top bit, and XOR with 0x31 if that bit was set. -/
def crcRound (x : Byte) : Byte := if x.msb then (x <<< 1) ^^^ 0x31#8 else x <<< 1

/-- `n` rounds. -/
def crcRounds : Nat → Byte → Byte
  | 0, x => x
  | n + 1, x => crcRounds n (crcRound x)

/-- `crc_step(a, b)`: fold one byte into the accumulator (R67). -/
def crcStep (a b : Byte) : Byte := crcRounds 8 (a ^^^ b)

/-- `crc_bytes(a, bs)`: fold a byte sequence, in order (R68). -/
def crcBytes (a : Byte) : List Byte → Byte
  | [] => a
  | b :: bs => crcBytes (crcStep a b) bs

/-- `crc_word(a, d)`: the high byte, then the low byte (R69). -/
def crcWord (a : Byte) (d : Half) : Byte := crcStep (crcStep a (highByte d)) (lowByte d)

/-- CRC <- v. -/
def State.setCrc (s : State) (v : Byte) : State := { s with crc := v }

/-- STATUS <- st, field by field. -/
def State.setStatus (s : State) (st : Status) : State := { s with status := st }

/-- QUOT, REM and DIVR <- q, r, n. -/
def State.setResult (s : State) (q r : Word) (n : Half) : State := { s with quot := q, rem := r, divr := n }

/-- `QUOT` of a scaling: `trunc_32(tdiv(v, DIV[f]))` (41_scale.md R77). -/
def quotient (c : Config) (f : FieldIndex) (d : Half) : Word := BitVec.ofInt 32 (tdiv (raw c f d) (c.divisor f))

/-- `REM` of a scaling: `trunc_32(trem(v, DIV[f]))` (41_scale.md R77). -/
def remainder (c : Config) (f : FieldIndex) (d : Half) : Word := BitVec.ofInt 32 (trem (raw c f d) (c.divisor f))

/-- `scale(f, D)`: the result registers, VALID and LASTF (41_scale.md R77). -/
def State.scale (s : State) (f : FieldIndex) (d : Half) : State :=
  (s.setResult (quotient s.cfg f d) (remainder s.cfg f d) (BitVec.ofNat 16 (s.cfg.divisor f))).setStatus
    ((s.status.setValid true).setLastf f)

/-- QUOT, REM, DIVR and VALID <- 0: what a FIELD mismatch does to the result (41_scale.md R79). -/
def State.dropResult (s : State) : State := (s.setResult 0#32 0#32 0#16).setStatus (s.status.setValid false)

/-- Record the result of a compare in MATCH and ERR (10_state.md R25, R26). -/
def State.compared (s : State) (m : Bool) : State := s.setStatus (s.status.compared m)

/-- `raise ILL`: STATUS.ILL <- 1, and no other state changes (60_exceptions.md R91). -/
def State.raiseIll (s : State) : State := s.setStatus s.status.setIll

/-- Every register of the block to its reset value (42_control.md R84). -/
def State.cleared (s : State) : State :=
  ((s.setCrc crcSeed).setStatus Status.cleared).setResult 0#32 0#32 0#16

/-- The host's accesses still to come. -/
def State.setPending (s : State) (es : List HostEvent) : State := { s with pending := es }

/-- What the host's latest read returned. -/
def State.setReadout (s : State) (v : Word) : State := { s with readout := some v }

end Sys2Proof.Machine
end

