-- ==== Sys2Proof/Machine/Control.lean ====
section
/-! DEFINITION. The meanings of the control commands (spec 42_control.md R83, R84) and of the reserved opcodes
(60_exceptions.md R90, R91). -/

namespace Sys2Proof.Machine

/-- NOP: no state changes (R83). -/
def execNop (s : State) : Host.Outcome State Fault Refusal := .next s

/-- CLEAR: every register to its reset value (R84). -/
def execClear (s : State) : Host.Outcome State Fault Refusal := .next s.cleared

/-- A reserved opcode raises ILL; the opcode itself is not kept (R89, R90). -/
def execReserved (_op : BitVec 4) (s : State) : Host.Outcome State Fault Refusal := .next s.raiseIll

end Sys2Proof.Machine
end

