-- ==== Sys2Proof/Machine/Crc.lean ====
section
/-! DEFINITION. The meanings of the CRC-8 generator commands (spec 40_crc.md R70 to R73). -/

namespace Sys2Proof.Machine

/-- CRC_INIT: CRC <- 0xFF (R70). -/
def execCrcInit (s : State) : Host.Outcome State Fault Refusal := .next (s.setCrc crcSeed)

/-- CRC_BYTE: CRC <- crc_step(CRC, L) (R71). -/
def execCrcByte (l : Byte) (s : State) : Host.Outcome State Fault Refusal := .next (s.setCrc (crcStep s.crc l))

/-- CRC_WORD: CRC <- crc_word(CRC, D), with no new seed (R72). -/
def execCrcWord (d : Half) (s : State) : Host.Outcome State Fault Refusal := .next (s.setCrc (crcWord s.crc d))

/-- CRC_CHECK: MATCH <- (CRC == C), and ERR <- 1 on a mismatch (R73). -/
def execCrcCheck (c : Byte) (s : State) : Host.Outcome State Fault Refusal := .next (s.compared (s.crc == c))

end Sys2Proof.Machine
end

