-- ==== Sys2Proof/Machine/Scale.lean ====
section
/-! DEFINITION. The meanings of the fixed-point scaler commands (spec 41_scale.md R78, R79). -/

namespace Sys2Proof.Machine

/-- SCALE: a reserved field index raises ILL, a legal one scales (R78). -/
def execScale (f : BitVec 4) (d : Half) (s : State) : Host.Outcome State Fault Refusal :=
  match fieldIndex? f with
  | none => .next s.raiseIll
  | some i => .next (s.scale i d)

/-- FIELD with a legal index: the checksum of D from the seed goes to CRC and is compared with C; a match scales, a
mismatch drops the result; LASTF names the field either way (R79). -/
def State.checkField (s : State) (i : FieldIndex) (c : Byte) (d : Half) : State :=
  if crcWord crcSeed d == c then
    ((s.setCrc (crcWord crcSeed d)).compared true).scale i d
  else
    let t := ((s.setCrc (crcWord crcSeed d)).compared false).dropResult
    t.setStatus (t.status.setLastf i)

/-- FIELD: a reserved field index raises ILL before anything else, a legal one checks and scales (R79). -/
def execField (f : BitVec 4) (c : Byte) (d : Half) (s : State) : Host.Outcome State Fault Refusal :=
  match fieldIndex? f with
  | none => .next s.raiseIll
  | some i => .next (s.checkField i c d)

end Sys2Proof.Machine
end

