-- ==== Sys2Proof/Machine/Dispatch.lean ====
section
/-! DEFINITION. The command function (spec 30_encoding.md R66): one arm per constructor of Instr. -/

namespace Sys2Proof.Machine

def exec (i : Instr) (s : State) : Host.Outcome State Fault Refusal :=
  match i with
  | .nop => Sys2Proof.Machine.execNop s
  | .crcInit => Sys2Proof.Machine.execCrcInit s
  | .crcByte l => Sys2Proof.Machine.execCrcByte l s
  | .crcWord d => Sys2Proof.Machine.execCrcWord d s
  | .crcCheck c => Sys2Proof.Machine.execCrcCheck c s
  | .scale f d => Sys2Proof.Machine.execScale f d s
  | .field f c d => Sys2Proof.Machine.execField f c d s
  | .clear => Sys2Proof.Machine.execClear s
  | .reserved op => Sys2Proof.Machine.execReserved op s

end Sys2Proof.Machine
end

