-- ==== Sys2Proof/Machine/Window.lean ====
section
/-! DEFINITION. The register window: which host accesses the block accepts, and what each slot reads as
(spec 20_memory.md R40 to R45). -/

namespace Sys2Proof.Machine

/-- The eight slots of the window (R42). -/
inductive Slot where
  | cmd
  | status
  | crc
  | quot
  | rem
  | divr
  | reserved18
  | reserved1C
deriving DecidableEq, Repr

/-- The slot of a 4-byte slot number: offsets 0x00, 0x04, ..., 0x1C in the order of R42. -/
def slotAt : Nat → Slot
  | 0 => .cmd
  | 1 => .status
  | 2 => .crc
  | 3 => .quot
  | 4 => .rem
  | 5 => .divr
  | 6 => .reserved18
  | _ => .reserved1C

/-- The slot an access names, or why the block does not accept it: only a 4-byte access at a multiple of 4 inside the
window is accepted (R41, R45). Which of the three reasons is given when several hold is the model's (DESIGN CHOICE,
notes/assumptions/5.md). -/
def acceptedSlot (c : Config) (addr width : Nat) : Except Refusal Slot :=
  if width ≠ 4 then .error .accessWidth
  else if addr < c.base ∨ c.base + 32 ≤ addr then .error .outsideWindow
  else if (addr - c.base) % 4 ≠ 0 then .error .misaligned
  else .ok (slotAt ((addr - c.base) / 4))

/-- The read value of a slot (R42, R43): CMD stores nothing and reads 0, like the reserved slots. -/
def readSlot (s : State) : Slot → Word
  | .cmd => 0#32
  | .status => statusWord s.status
  | .crc => s.crc.setWidth 32
  | .quot => s.quot
  | .rem => s.rem
  | .divr => s.divr.setWidth 32
  | .reserved18 => 0#32
  | .reserved1C => 0#32

end Sys2Proof.Machine
end

