-- ==== Sys2Proof/Machine/Access.lean ====
section
/-! DEFINITION. What one host access or one reset event does (spec 20_memory.md R43 to R45; 70_reset_and_hazards.md
R99). -/

namespace Sys2Proof.Machine

/-- `MemRead(addr, width)`: an accepted one returns the slot's value and changes no register (R43). -/
def hostRead (addr width : Nat) (s : State) : Host.Outcome State Fault Refusal :=
  match acceptedSlot s.cfg addr width with
  | .error r => .refused r
  | .ok slot => .next (s.setReadout (readSlot s slot))

/-- An accepted `MemWrite(BASE + off, 4, v)`: at CMD it runs the command `v` to completion, at any other slot it changes
no state (R44, R47). -/
def writeSlot (v : Word) (s : State) : Slot → Host.Outcome State Fault Refusal
  | .cmd => exec (decodeWord v) s
  | .status => .next s
  | .crc => .next s
  | .quot => .next s
  | .rem => .next s
  | .divr => .next s
  | .reserved18 => .next s
  | .reserved1C => .next s

/-- `MemWrite(addr, width, v)` (R44, R45). -/
def hostWrite (addr width : Nat) (v : Word) (s : State) : Host.Outcome State Fault Refusal :=
  match acceptedSlot s.cfg addr width with
  | .error r => .refused r
  | .ok slot => writeSlot v s slot

/-- The reset event: every register to its value of R36; the constants `DIV`, `SGN` and `BASE` stay (R99). The host's own
accesses still to come, and what it read before, are no state of the block and stay too (DESIGN CHOICE,
notes/assumptions/3.md). -/
def State.afterReset (s : State) : State :=
  { State.resetWith s.cfg with pending := s.pending, readout := s.readout }

/-- One event of the outside. -/
def perform : HostEvent → State → Host.Outcome State Fault Refusal
  | .read addr width, s => hostRead addr width s
  | .write addr width v, s => hostWrite addr width v s
  | .reset, s => .next s.afterReset

/-- The host's next event: it leaves `pending` as it is performed, and with none pending the block does nothing
(10_state.md R21; 20_memory.md R51). -/
def performNext (s : State) : Host.Outcome State Fault Refusal :=
  match s.pending with
  | [] => .next s
  | e :: rest => perform e (s.setPending rest)

/-- The one access that hands the block a command word given as `nbits` bits, the rest 0: `MemWrite(BASE + 0x00, 4, w)`
(30_encoding.md R55). -/
def commandWrite (c : Config) (nbits w : Nat) : HostEvent := .write c.base 4 (BitVec.ofNat 32 (w % 2 ^ nbits))

end Sys2Proof.Machine
end

