-- ==== Sys2Proof/Machine/Step.lean ====
section
/-! DEFINITION. One step of the machine: the host's next access, performed whole (spec 20_memory.md R47, R51). -/

namespace Sys2Proof.Machine

/-- One step. -/
def step (s : State) : Host.Outcome State Fault Refusal := performNext s

/-- `s` with the write of that command word as the host's very next access. The block fetches nothing (10_state.md
R21): a CMD write is where its next instruction comes from. -/
def State.withFetchWord (s : State) (nbits w : Nat) : State := s.setPending (commandWrite s.cfg nbits w :: s.pending)

end Sys2Proof.Machine
end

