-- ==== Sys2Proof/Machine/Asm.lean ====
section
/-! DEFINITION. The assembler of the spec: its syntax, its ranges and the pseudo-instructions' expansions
(spec 30_encoding.md R64, R65). No step of the machine uses it; it says which words a line of a command stream is.
How blanks are read, and which reason is named where a line is wrong in several ways, is the model's own (DESIGN CHOICE,
notes/assumptions/6.md). -/

namespace Sys2Proof.Machine

/-- A field index operand: a number, or a name of R30 (R64). -/
inductive IndexOperand where
  | number (n : Nat)
  | name (f : FieldName)
deriving DecidableEq, Repr

/-- One line of a command stream, operands as they are written (R64, R65). -/
inductive AsmLine where
  | nop
  | crcInit
  | crcByte (b : Nat)
  | crcWord (d : Nat)
  | crcCheck (c : Nat)
  | scale (f : IndexOperand) (d : Nat)
  | field (f : IndexOperand) (d c : Nat)
  | clear
  /-- `.word w`: a raw command word. -/
  | rawWord (w : Nat)
  /-- `crc.bytes b0, ..., bn-1`; n = 0 emits nothing. -/
  | crcBytes (bs : List Nat)
  /-- `crc.of b0, ..., bn-1`. -/
  | crcOf (bs : List Nat)
  /-- `chk.pair h, l, c`. -/
  | chkPair (h l c : Nat)
  /-- `chk.frame d0, c0, ..., d8, c8`: nine pairs. -/
  | chkFrame (fields : List (Nat × Nat))
deriving DecidableEq, Repr

/-- Why the assembler refuses a line (R64). The names are the model's (DESIGN CHOICE, notes/assumptions/6.md). -/
inductive AsmError where
  /-- "An assembler refuses an operand out of range." -/
  | operandOutOfRange
  /-- "It also refuses a field index above 8." -/
  | fieldIndexAbove8
  /-- The operands of the line are too few or too many. -/
  | operandCount
  /-- An operand that is neither a decimal nor a hexadecimal number, nor a field name where one may stand. -/
  | badOperand
  /-- No mnemonic of R64 or R65. -/
  | unknownMnemonic
deriving DecidableEq, Repr

/-- An unsigned operand of `n` bits, refused if it does not fit (R64). -/
def operand (n v : Nat) : Except AsmError (BitVec n) :=
  if v < 2 ^ n then .ok (BitVec.ofNat n v) else .error .operandOutOfRange

/-- A field index operand, refused above 8 (R64). -/
def indexOperand : IndexOperand → Except AsmError (BitVec 4)
  | .number n => if n ≤ 8 then .ok (BitVec.ofNat 4 n) else .error .fieldIndexAbove8
  | .name f => .ok (BitVec.ofNat 4 f.index.val)

/-- `crc.byte` for each byte, in order (R65). -/
def byteCommands : List Nat → Except AsmError (List Instr)
  | [] => .ok []
  | b :: bs => do
    let l ← operand 8 b
    let rest ← byteCommands bs
    return .crcByte l :: rest

/-- `field f, d, c` for each pair, the index counting up from `f` (R65). -/
def fieldCommands (f : Nat) : List (Nat × Nat) → Except AsmError (List Instr)
  | [] => .ok []
  | (d, c) :: rest => do
    let i ← indexOperand (.number f)
    let dv ← operand 16 d
    let cv ← operand 8 c
    let tail ← fieldCommands (f + 1) rest
    return .field i cv dv :: tail

/-- The commands of a line other than `.word` (R64, R65). DESIGN CHOICE: of several operands that are out of range the
index is reported first, and a `chk.frame` of other than nine pairs is reported as that before any operand's range is
looked at (notes/assumptions/6.md). -/
def expand : AsmLine → Except AsmError (List Instr)
  | .nop => .ok [.nop]
  | .crcInit => .ok [.crcInit]
  | .crcByte b => do return [.crcByte (← operand 8 b)]
  | .crcWord d => do return [.crcWord (← operand 16 d)]
  | .crcCheck c => do return [.crcCheck (← operand 8 c)]
  | .scale f d => do return [.scale (← indexOperand f) (← operand 16 d)]
  | .field f d c => do return [.field (← indexOperand f) (← operand 8 c) (← operand 16 d)]
  | .clear => .ok [.clear]
  | .rawWord w => do return [decodeWord (← operand 32 w)]
  | .crcBytes bs => byteCommands bs
  | .crcOf bs => do return .crcInit :: (← byteCommands bs)
  | .chkPair h l c => do
    let hv ← operand 8 h
    let lv ← operand 8 l
    let cv ← operand 8 c
    return [.crcInit, .crcWord (hv ++ lv), .crcCheck cv]
  | .chkFrame fields =>
    if fields.length = 9 then do return .clear :: (← fieldCommands 0 fields) else .error .operandCount

/-- The words a line emits: `.word w` emits the raw word, every other line the canonical words of its commands
(R64, R65). -/
def assemble : AsmLine → Except AsmError (List Word)
  | .rawWord w => do return [← operand 32 w]
  | line => do return (← expand line).map encode

/-- The operands of `chk.frame` for a 27-byte raw frame: field `f` is the high byte at `3f`, the low byte at `3f+1` and
the checksum byte at `3f+2` (10_state.md R30; 41_scale.md R82). -/
def frameOperands (frame : Vector Byte 27) : List (Nat × Nat) :=
  (List.finRange 9).map fun f =>
    ((frame[3 * f.val] ++ frame[3 * f.val + 1] : Half).toNat, frame[3 * f.val + 2].toNat)

/-- The value of a digit character, if it is one of a base up to 16. -/
def digit? (c : Char) : Option Nat :=
  if '0' ≤ c ∧ c ≤ '9' then some (c.toNat - '0'.toNat)
  else if 'a' ≤ c ∧ c ≤ 'f' then some (c.toNat - 'a'.toNat + 10)
  else if 'A' ≤ c ∧ c ≤ 'F' then some (c.toNat - 'A'.toNat + 10)
  else none

/-- The value of a list of digits in a base, after the digits read so far. -/
def digits? (base acc : Nat) : List Char → Option Nat
  | [] => some acc
  | c :: cs =>
    match digit? c with
    | some v => if v < base then digits? base (acc * base + v) cs else none
    | none => none

/-- A number, decimal or `0x` hexadecimal (R64). -/
def number? : List Char → Option Nat
  | '0' :: 'x' :: c :: cs => digits? 16 0 (c :: cs)
  | c :: cs => digits? 10 0 (c :: cs)
  | [] => none

/-- The field names of R64. -/
def fieldName? (cs : List Char) : Option FieldName :=
  if cs = ['p', 'm', '1'] then some .pm1
  else if cs = ['p', 'm', '2', '_', '5'] then some .pm2_5
  else if cs = ['p', 'm', '4'] then some .pm4
  else if cs = ['p', 'm', '1', '0'] then some .pm10
  else if cs = ['r', 'h'] then some .rh
  else if cs = ['t'] then some .t
  else if cs = ['v', 'o', 'c'] then some .voc
  else if cs = ['n', 'o', 'x'] then some .nox
  else if cs = ['c', 'o', '2'] then some .co2
  else none

/-- A field index operand in text: a name or a number (R64). -/
def index? (cs : List Char) : Option IndexOperand :=
  match fieldName? cs with
  | some f => some (.name f)
  | none =>
    match number? cs with
    | some n => some (.number n)
    | none => none

/-- The parts of a text between commas; the text without one is one part. -/
def commaParts : List Char → List (List Char)
  | [] => [[]]
  | c :: cs =>
    if c = ',' then [] :: commaParts cs
    else
      match commaParts cs with
      | p :: ps => (c :: p) :: ps
      | [] => [[c]]

/-- The operand texts of a line: blanks do not count, and an empty text has no operand. -/
def operandTexts (cs : List Char) : List (List Char) :=
  let kept := cs.filter (fun c => c ≠ ' ')
  if kept = [] then [] else commaParts kept

/-- The number of each text, if all are numbers. -/
def numbers? : List (List Char) → Option (List Nat)
  | [] => some []
  | t :: ts =>
    match number? t, numbers? ts with
    | some n, some ns => some (n :: ns)
    | _, _ => none

/-- A list cut into pairs, if its length is even. -/
def pairs? : List Nat → Option (List (Nat × Nat))
  | [] => some []
  | [_] => none
  | a :: b :: rest =>
    match pairs? rest with
    | some ps => some ((a, b) :: ps)
    | none => none

/-- A line whose operands are numbers, by how it is built from them. DESIGN CHOICE: an operand that is no number is
reported before a wrong count of operands, and both before an operand out of range, which `expand` sees later
(notes/assumptions/6.md). -/
def numericLine (ts : List (List Char)) (build : List Nat → Option AsmLine) : Except AsmError AsmLine :=
  match numbers? ts with
  | none => .error .badOperand
  | some ns =>
    match build ns with
    | some line => .ok line
    | none => .error .operandCount

/-- A line whose first operand is a field index and whose others are numbers. DESIGN CHOICE: without any operand the
count is reported; else an unreadable index is reported first, then what `numericLine` reports of the other operands, and
an index above 8 only after all of these (`expand`), so `scale 9` has a wrong count (notes/assumptions/6.md). -/
def indexedLine (ts : List (List Char)) (build : IndexOperand → List Nat → Option AsmLine) : Except AsmError AsmLine :=
  match ts with
  | [] => .error .operandCount
  | t :: rest =>
    match index? t with
    | none => .error .badOperand
    | some f => numericLine rest (build f)

/-- The mnemonics of R64 and R65 with the operands each takes. DESIGN CHOICE: an unknown mnemonic is reported whatever its
operands are (notes/assumptions/6.md). -/
def lineOf (mnemonic : List Char) (ts : List (List Char)) : Except AsmError AsmLine :=
  if mnemonic = ['n', 'o', 'p'] then numericLine ts fun | [] => some .nop | _ => none
  else if mnemonic = ['c', 'r', 'c', '.', 'i', 'n', 'i', 't'] then numericLine ts fun | [] => some .crcInit | _ => none
  else if mnemonic = ['c', 'r', 'c', '.', 'b', 'y', 't', 'e'] then numericLine ts fun | [b] => some (.crcByte b) | _ => none
  else if mnemonic = ['c', 'r', 'c', '.', 'w', 'o', 'r', 'd'] then numericLine ts fun | [d] => some (.crcWord d) | _ => none
  else if mnemonic = ['c', 'r', 'c', '.', 'c', 'h', 'e', 'c', 'k'] then
    numericLine ts fun | [c] => some (.crcCheck c) | _ => none
  else if mnemonic = ['s', 'c', 'a', 'l', 'e'] then indexedLine ts fun f ns => match ns with | [d] => some (.scale f d) | _ => none
  else if mnemonic = ['f', 'i', 'e', 'l', 'd'] then
    indexedLine ts fun f ns => match ns with | [d, c] => some (.field f d c) | _ => none
  else if mnemonic = ['c', 'l', 'e', 'a', 'r'] then numericLine ts fun | [] => some .clear | _ => none
  else if mnemonic = ['.', 'w', 'o', 'r', 'd'] then numericLine ts fun | [w] => some (.rawWord w) | _ => none
  else if mnemonic = ['c', 'r', 'c', '.', 'b', 'y', 't', 'e', 's'] then numericLine ts fun bs => some (.crcBytes bs)
  else if mnemonic = ['c', 'r', 'c', '.', 'o', 'f'] then numericLine ts fun bs => some (.crcOf bs)
  else if mnemonic = ['c', 'h', 'k', '.', 'p', 'a', 'i', 'r'] then
    numericLine ts fun | [h, l, c] => some (.chkPair h l c) | _ => none
  else if mnemonic = ['c', 'h', 'k', '.', 'f', 'r', 'a', 'm', 'e'] then
    numericLine ts fun ns => match pairs? ns with | some ps => some (.chkFrame ps) | none => none
  else .error .unknownMnemonic

/-- A line of text: its mnemonic up to the first blank, then its operands (R64). -/
def parseLine (text : List Char) : Except AsmError AsmLine :=
  let body := text.dropWhile (fun c => c = ' ')
  lineOf (body.takeWhile (fun c => c ≠ ' ')) (operandTexts (body.dropWhile (fun c => c ≠ ' ')))

/-- The words of a line of text. -/
def assembleText (text : List Char) : Except AsmError (List Word) := do assemble (← parseLine text)

end Sys2Proof.Machine
end

