-- ==== Sys2Proof/Safety.lean ====
section
/-! DEFINITION. The terms the claims are stated in: runs of events and of commands, the invariant of the reachable
states (spec 10_state.md R37), which words are reserved and which bits a command reads (30_encoding.md R58 to R61), what
a history of accesses leaves in the result registers (10_state.md R27), and what a safe run is. -/

namespace Sys2Proof.Machine

/-- A list of events, performed one after the other, stopping at the first access that is refused
(20_memory.md R51). -/
def performAll : List HostEvent → State → Host.Outcome State Fault Refusal
  | [], s => .next s
  | e :: es, s =>
    match perform e s with
    | .next t => performAll es t
    | .fault r => .fault r
    | .refused r => .refused r

/-- A list of commands, run one after the other. -/
def execAll : List Instr → State → Host.Outcome State Fault Refusal
  | [], s => .next s
  | i :: is, s =>
    match exec i s with
    | .next t => execAll is t
    | .fault r => .fault r
    | .refused r => .refused r

/-- The accesses the block accepts: 4 bytes, in the window, at a multiple of 4 (20_memory.md R41). -/
def Accepted (c : Config) (addr width : Nat) : Prop :=
  width = 4 ∧ ∃ k, k < 8 ∧ addr = c.base + 4 * k

/-- An event with a step. -/
def HostEvent.Accepted (c : Config) : HostEvent → Prop
  | .read addr width => Machine.Accepted c addr width
  | .write addr width _ => Machine.Accepted c addr width
  | .reset => True

/-- A safe run: none of the host's accesses is one the block gives no step to (20_memory.md R45). -/
def SafeRun (s : State) : Prop := ∀ e ∈ s.pending, e.Accepted s.cfg

/-- A reserved command word: a reserved opcode, or SCALE or FIELD with a reserved field index
(30_encoding.md R60, R61). -/
def ReservedWord (w : Word) : Prop :=
  8 ≤ (w.extractLsb' 28 4).toNat ∨
    ((w.extractLsb' 28 4 = 5#4 ∨ w.extractLsb' 28 4 = 6#4) ∧ 9 ≤ (w.extractLsb' 24 4).toNat)

/-- The bits a command reads beside its opcode, from the `encoding` strings of spec/opcode_table.json
(30_encoding.md R58): ones where the row has a field. -/
def readMask (op : BitVec 4) : Word :=
  if op = 2#4 then 0xF00000FF#32
  else if op = 3#4 then 0xF000FFFF#32
  else if op = 4#4 then 0xF0FF0000#32
  else if op = 5#4 then 0xFF00FFFF#32
  else if op = 6#4 then 0xFFFFFFFF#32
  else 0xF0000000#32

/-- The result registers hold the scaling of the raw value `d` of field `f` (41_scale.md R77). -/
def HoldsScaling (s : State) (f : FieldIndex) (d : Half) : Prop :=
  s.status.lastf = BitVec.ofNat 4 f.val ∧
  s.quot = BitVec.ofInt 32 (tdiv (raw s.cfg f d) (s.cfg.divisor f)) ∧
  s.rem = BitVec.ofInt 32 (trem (raw s.cfg f d) (s.cfg.divisor f)) ∧
  s.divr = BitVec.ofNat 16 (s.cfg.divisor f)

/-- What holds in every reachable state (10_state.md R37): LASTF names a field; with VALID clear the result registers
are 0; with VALID set they hold the scaling of some raw value of the field LASTF names. -/
def State.Inv (s : State) : Prop :=
  s.status.lastf.toNat ≤ 8 ∧
  (s.status.valid = false → s.quot = 0#32 ∧ s.rem = 0#32 ∧ s.divr = 0#16) ∧
  (s.status.valid = true → ∃ f d, HoldsScaling s f d)

/-- The states the machine can come to from a reset block, whatever the host does. -/
inductive Reachable (c : Config) : State → Prop where
  | reset (es : List HostEvent) (v : Option Word) :
      Reachable c { State.resetWith c with pending := es, readout := v }
  | step {s t : State} : Reachable c s → Machine.step s = .next t → Reachable c t

/-- The raw value a CMD write leaves scaled in the result registers, from the word's fields alone, given the one before
it (10_state.md R27: the latest SCALE, or the latest FIELD whose compare succeeded, if it has not been cleared). -/
def scalingAfterCommand (w : Word) (before : Option (FieldIndex × Half)) : Option (FieldIndex × Half) :=
  let d := w.extractLsb' 0 16
  if h : (w.extractLsb' 24 4).toNat < 9 then
    if w.extractLsb' 28 4 = 5#4 then some (⟨(w.extractLsb' 24 4).toNat, h⟩, d)
    else if w.extractLsb' 28 4 = 6#4 then
      if crcWord 0xFF#8 d = w.extractLsb' 16 8 then some (⟨(w.extractLsb' 24 4).toNat, h⟩, d) else none
    else if w.extractLsb' 28 4 = 7#4 then none
    else before
  else if w.extractLsb' 28 4 = 7#4 then none
  else before

/-- The same for any event of a block with the parameters `c`. -/
def scalingAfter (c : Config) (before : Option (FieldIndex × Half)) : HostEvent → Option (FieldIndex × Half)
  | .read _ _ => before
  | .write addr _ w => if addr = c.base then scalingAfterCommand w before else before
  | .reset => none

/-- The result registers hold what a history has left: the scaling of a raw value, or nothing, VALID then being 0
(10_state.md R27). -/
def HoldsResult (s : State) : Option (FieldIndex × Half) → Prop
  | none => s.status.valid = false ∧ s.quot = 0#32 ∧ s.rem = 0#32 ∧ s.divr = 0#16
  | some (f, d) => s.status.valid = true ∧ HoldsScaling s f d

/-- The command word `w` makes a compare that fails in the state `s` (40_crc.md R73; 41_scale.md R79). -/
def CompareFails (w : Word) (s : State) : Prop :=
  (w.extractLsb' 28 4 = 4#4 ∧ s.crc ≠ w.extractLsb' 16 8) ∨
  (w.extractLsb' 28 4 = 6#4 ∧ (w.extractLsb' 24 4).toNat ≤ 8 ∧ crcWord 0xFF#8 (w.extractLsb' 0 16) ≠ w.extractLsb' 16 8)

/-- The command word `w` makes a compare that succeeds in the state `s`. -/
def CompareSucceeds (w : Word) (s : State) : Prop :=
  (w.extractLsb' 28 4 = 4#4 ∧ s.crc = w.extractLsb' 16 8) ∨
  (w.extractLsb' 28 4 = 6#4 ∧ (w.extractLsb' 24 4).toNat ≤ 8 ∧ crcWord 0xFF#8 (w.extractLsb' 0 16) = w.extractLsb' 16 8)

/-- The event is a reset, or the write of a CLEAR command. -/
def HostEvent.Clears (c : Config) (e : HostEvent) : Prop :=
  e = .reset ∨ ∃ w, e = .write c.base 4 w ∧ w.extractLsb' 28 4 = 7#4

/-- A write of the command word `w`. -/
def cmdWrite (c : Config) (w : Word) : HostEvent := .write c.base 4 w

/-- Carry-less multiplication of a byte by a 9-bit polynomial: the polynomials over two elements, as bit patterns. -/
def carrylessMul (q : Byte) (p : BitVec 16) : BitVec 16 :=
  (List.range 8).foldl (fun acc k => if q.getLsbD k then acc ^^^ (p <<< k) else acc) 0#16

/-- The commands of a frame of triples, each field's data and its checksum byte in field order
(30_encoding.md R65, `chk.frame`). -/
def frameCommands (fields : List (Half × Byte)) : List Instr :=
  .clear :: fields.zipIdx.map fun x => .field (BitVec.ofNat 4 x.2) x.1.2 x.1.1

/-- Every register of the block has its reset value (10_state.md R36). -/
def AtResetValues (s : State) : Prop :=
  s.crc = 0xFF#8 ∧ s.status.matched = false ∧ s.status.err = false ∧ s.status.valid = false ∧ s.status.ill = false ∧
  s.status.lastf = 0#4 ∧ s.quot = 0#32 ∧ s.rem = 0#32 ∧ s.divr = 0#16

end Sys2Proof.Machine
end

