-- ==== Sys2Proof/Certificates/Slice0/Obligations.lean ====
section
/-! DEFINITION. The statements for the provers, from the numbered rules of spec/. Fields of a command word are written as
bit slices `w.extractLsb' lo width`, as the spec writes `w[hi:lo]` (00_scope.md R10). A statement over every state holds
for every configuration, since the parameters DIV, SGN and BASE are a field of the state that no step writes. -/

open Sys2Proof Sys2Proof.Machine

/-! ### Reset, the step, the register window -/

/-- R36, R99: the reset state, the reset event from any state, and CLEAR all leave every register at its reset value, and
the constants unchanged. -/
def Obligations.ResetAndClearGiveEveryRegisterItsResetValue : Prop :=
  (∀ c, AtResetValues (State.resetWith c)) ∧ AtResetValues State.reset ∧
  (∀ s, ∃ t, perform .reset s = .next t ∧ AtResetValues t ∧ t.cfg = s.cfg) ∧
  (∀ s, ∃ t, exec .clear s = .next t ∧ AtResetValues t ∧ t.cfg = s.cfg)

/-- R21, R44, R47: a step performs the oldest pending event of the host whole, and none if there is none; where that event
writes a word at CMD, the step is exactly the meaning of the decoded command, with that access no longer pending. The
last part says the same of the word placed by `withFetchWord`. Three points of it are the model's and no rule's: that the
host's accesses stand in a list that the step takes them from (log entry 1), that a step with none pending changes nothing
(log entry 8, DEDUCED), and that a table word is laid into the command word as the number it is, one of fewer than 32 bits
with zeros above them (log entry 7, DEDUCED). -/
def Obligations.StepRunsTheDecodedCommand : Prop :=
  (∀ s e rest, s.pending = e :: rest → step s = perform e { s with pending := rest }) ∧
  (∀ s, s.pending = [] → step s = .next s) ∧
  (∀ s w rest, s.pending = .write s.cfg.base 4 w :: rest → step s = exec (decodeWord w) { s with pending := rest }) ∧
  (∀ s nbits w i, decodeTableWord nbits w = some i → step (s.withFetchWord nbits w) = exec i s)

/-- R42, R43, R44: the register map. Reading offset `k` of the window returns the value of R42 and changes no register;
writing a slot other than CMD changes nothing; writing CMD runs the word. (`readout` is the model's name for what the host
receives: log entry 4.) -/
def Obligations.RegisterMapReadsAndWrites : Prop :=
  (∀ (s : State) (k : Nat) (v : Word),
    ((k = 0x00 ∧ v = 0#32) ∨
     (k = 0x04 ∧ v = 0#24 ++ s.status.lastf ++ BitVec.ofBool s.status.ill ++ BitVec.ofBool s.status.valid ++
        BitVec.ofBool s.status.err ++ BitVec.ofBool s.status.matched) ∨
     (k = 0x08 ∧ v = 0#24 ++ s.crc) ∨ (k = 0x0C ∧ v = s.quot) ∨ (k = 0x10 ∧ v = s.rem) ∨
     (k = 0x14 ∧ v = 0#16 ++ s.divr) ∨ (k = 0x18 ∧ v = 0#32) ∨ (k = 0x1C ∧ v = 0#32)) →
    perform (.read (s.cfg.base + k) 4) s = .next { s with readout := some v }) ∧
  (∀ (s : State) (k : Nat) (v : Word), 0 < k → k < 8 → perform (.write (s.cfg.base + 4 * k) 4 v) s = .next s) ∧
  (∀ (s : State) (v : Word), perform (.write s.cfg.base 4 v) s = exec (decodeWord v) s)

/-- R41, R45: an access the block accepts has a step, and every other access is refused. The accepted ones are the 4-byte
accesses at BASE, BASE + 4, ..., BASE + 0x1C. -/
def Obligations.ExactlyTheAlignedWordAccessesInTheWindowAreAccepted : Prop :=
  ∀ (s : State) (addr width : Nat) (w : Word),
    ((width = 4 ∧ ∃ k, k < 8 ∧ addr = s.cfg.base + 4 * k) →
      (∃ t, perform (.read addr width) s = .next t) ∧ (∃ t, perform (.write addr width w) s = .next t)) ∧
    (¬ (width = 4 ∧ ∃ k, k < 8 ∧ addr = s.cfg.base + 4 * k) →
      (∃ r, perform (.read addr width) s = .refused r) ∧ (∃ r, perform (.write addr width w) s = .refused r))

/-- R51: the pending accesses are performed one at a time, in order: running one step per access is performing the list,
each on the state the one before it left, and a refused access stops the run there. R51 and R47 speak of accesses. That
they stand in a list the step takes them from is the model's (log entry 1), and so it is that a reset event may stand among
them and that the accesses after it are still performed (log entry 3, DESIGN CHOICE). -/
def Obligations.AccessesArePerformedOneByOneInProgramOrder : Prop :=
  ∀ (es rest : List HostEvent) (s : State),
    Host.Core.run Sys2Proof.core es.length (s.setPending (es ++ rest)) = performAll es (s.setPending rest)

/-- R48: reads have no side effects: a read repeated after any other reads returns the same value, and no number of
accepted reads changes a register. Writing CRC_BYTE or CRC_WORD twice is not in general writing it once. -/
def Obligations.ReadsAreIdempotentAndCommandsAreNot : Prop :=
  (∀ (s t u v : State) (a : Nat) (es : List HostEvent), (∀ e ∈ es, ∃ b, e = .read b 4) →
    perform (.read a 4) s = .next t → performAll es t = .next u → perform (.read a 4) u = .next v →
    v.readout = t.readout ∧ v = { s with readout := t.readout }) ∧
  (∀ (s t : State) (k : Nat) (w : Word), 0 < k → k < 8 →
    perform (.write (s.cfg.base + 4 * k) 4 w) s = .next t → t = s) ∧
  (∃ s l, execAll [.crcByte l, .crcByte l] s ≠ execAll [.crcByte l] s) ∧
  (∃ s d, execAll [.crcWord d, .crcWord d] s ≠ execAll [.crcWord d] s)

/-- R35, R87, R102: from any state, a run whose pending accesses are all accepted ones never stops, however long it is:
the block never traps or stalls the host. The list of pending accesses (log entry 1), that those after a reset event are
still performed (log entry 3, DESIGN CHOICE) and that a step with none pending changes nothing (log entry 8, DEDUCED) are
the model's. -/
def Obligations.SafeRunsNeverStop : Prop :=
  ∀ (n : Nat) (s : State), SafeRun s → ∃ t, Host.Core.run Sys2Proof.core n s = .next t

/-- R34: the tables (and BASE) are constants: no step changes them; no command but SCALE and FIELD depends on them; and
no read of the host does. -/
def Obligations.ConfigurationIsConstant : Prop :=
  (∀ s t, step s = .next t → t.cfg = s.cfg) ∧
  (∀ (i : Instr) (s t : State) (c : Config), (∀ f d, i ≠ .scale f d) → (∀ f k d, i ≠ .field f k d) →
    exec i s = .next t → exec i { s with cfg := c } = .next { t with cfg := c }) ∧
  (∀ (s : State) (c : Config) (sl : Slot), readSlot { s with cfg := c } sl = readSlot s sl)

/-- R6, R7, R8: a set of parameters is a configuration exactly if BASE is a multiple of 32 (R8), every divisor is 1, 10,
100 or 200, and the CO2 divisor is 1 (R6); the configuration then has those parameters, the signedness table among them
(R7); and the default tables are the spec's (R6, R7). Which reason a refusal names is the model's (log entry 11), and the
statement says nothing of it. -/
def Obligations.ParametersOutsideTheDivisorSetAreRefused : Prop :=
  (∀ (base : Nat) (div : Vector Nat 9) (sgn : Vector Bool 9),
    (∃ c, Config.ofParameters base div sgn = .ok c) ↔
      base % 32 = 0 ∧ div[8] = 1 ∧ ∀ f : FieldIndex, div[f] = 1 ∨ div[f] = 10 ∨ div[f] = 100 ∨ div[f] = 200) ∧
  (∀ (base : Nat) (div : Vector Nat 9) (sgn : Vector Bool 9) (c : Config), Config.ofParameters base div sgn = .ok c →
    c.base = base ∧ ∀ f : FieldIndex, c.divisor f = div[f] ∧ c.isSigned f = sgn[f]) ∧
  (∀ (c : Config) (f : FieldIndex),
    (c.divisor f = 1 ∨ c.divisor f = 10 ∨ c.divisor f = 100 ∨ c.divisor f = 200) ∧ c.divisor 8 = 1) ∧
  (List.finRange 9).map Config.default.divisor = [10, 10, 10, 10, 100, 200, 10, 10, 1] ∧
  (List.finRange 9).map Config.default.isSigned = [false, false, false, false, true, true, true, true, false]

/-! ### Encoding -/

/-- R64: words written out from the spec's table of syntax and words decode to the commands they stand for. -/
def Obligations.WordsOfTheSpecDecodeToTheirCommands : Prop :=
  decodeWord 0x00000000#32 = .nop ∧ decodeWord 0x10000000#32 = .crcInit ∧ decodeWord 0x200000BE#32 = .crcByte 0xBE#8 ∧
  decodeWord 0x3000BEEF#32 = .crcWord 0xBEEF#16 ∧ decodeWord 0x40B00000#32 = .crcCheck 0xB0#8 ∧
  decodeWord 0x55001068#32 = .scale 5#4 0x1068#16 ∧ decodeWord 0x61D800FA#32 = .field 1#4 0xD8#8 0x00FA#16 ∧
  decodeWord 0x70000000#32 = .clear ∧ decodeWord 0x80000000#32 = .reserved 8#4

/-- Decode and encode agree on every well-formed instruction, with every operand at every value. -/
def Obligations.DecodingAnEncodedInstructionGivesItBack : Prop :=
  ∀ i : Instr, i.WellFormed → decodeWord (encode i) = i

/-- R62, R63: every word decodes to a well-formed instruction, whose canonical word is the word with the bits its opcode's
row does not read set to 0. For the reserved opcodes, that this leaves the opcode alone is the model's (log entry 10,
DEDUCED): the instruction of a reserved word keeps no other bit. -/
def Obligations.EveryWordDecodesAndEncodesToItsCanonicalWord : Prop :=
  ∀ w : Word, (decodeWord w).WellFormed ∧ encode (decodeWord w) = w &&& readMask (w.extractLsb' 28 4)

/-- R57, R58, R66: the opcode alone picks the command, and its operands are the fields of R56 as they stand. For SCALE and
FIELD the value of F then decides between the command and ILL. -/
def Obligations.TheOpcodeAndFieldsOfAWordPickItsEffect : Prop :=
  ∀ (w : Word) (s : State),
    (w.extractLsb' 28 4 = 0#4 → exec (decodeWord w) s = execNop s) ∧
    (w.extractLsb' 28 4 = 1#4 → exec (decodeWord w) s = execCrcInit s) ∧
    (w.extractLsb' 28 4 = 2#4 → exec (decodeWord w) s = execCrcByte (w.extractLsb' 0 8) s) ∧
    (w.extractLsb' 28 4 = 3#4 → exec (decodeWord w) s = execCrcWord (w.extractLsb' 8 8 ++ w.extractLsb' 0 8) s) ∧
    (w.extractLsb' 28 4 = 4#4 → exec (decodeWord w) s = execCrcCheck (w.extractLsb' 16 8) s) ∧
    (w.extractLsb' 28 4 = 5#4 → 9 ≤ (w.extractLsb' 24 4).toNat → exec (decodeWord w) s = .next s.raiseIll) ∧
    (w.extractLsb' 28 4 = 5#4 → ∀ f : FieldIndex, f.val = (w.extractLsb' 24 4).toNat →
      exec (decodeWord w) s = .next (s.scale f (w.extractLsb' 8 8 ++ w.extractLsb' 0 8))) ∧
    (w.extractLsb' 28 4 = 6#4 → 9 ≤ (w.extractLsb' 24 4).toNat → exec (decodeWord w) s = .next s.raiseIll) ∧
    (w.extractLsb' 28 4 = 6#4 → ∀ f : FieldIndex, f.val = (w.extractLsb' 24 4).toNat →
      exec (decodeWord w) s =
        .next (s.checkField f (w.extractLsb' 16 8) (w.extractLsb' 8 8 ++ w.extractLsb' 0 8))) ∧
    (w.extractLsb' 28 4 = 7#4 → exec (decodeWord w) s = execClear s) ∧
    (8 ≤ (w.extractLsb' 28 4).toNat → exec (decodeWord w) s = .next s.raiseIll)

/-- R59: the bits an opcode's row does not read have no effect: any value in them gives the same result as 0. In every
command other than SCALE and FIELD this includes F, so a reserved value there does not raise ILL. -/
def Obligations.UnusedFieldsAreIgnored : Prop :=
  (∀ (w : Word) (s : State), exec (decodeWord w) s = exec (decodeWord (w &&& readMask (w.extractLsb' 28 4))) s) ∧
  (∀ (w : Word) (s t : State), w.extractLsb' 28 4 ≠ 5#4 → w.extractLsb' 28 4 ≠ 6#4 →
    (w.extractLsb' 28 4).toNat < 8 → exec (decodeWord w) s = .next t → t.status.ill = true → s.status.ill = true)

/-- R64: what the assembler emits for a line with operands in range, and that it refuses an operand out of range and a
field index above 8; a field may be named. Under which name it refuses, and that the index is reported first where other
operands of the line are out of range too, is the model's (log entry 6, DESIGN CHOICE). -/
def Obligations.AssemblerEmitsTheWordsOfTheSyntaxTable : Prop :=
  assemble .nop = .ok [0x00000000#32] ∧ assemble .crcInit = .ok [0x10000000#32] ∧
  assemble .clear = .ok [0x70000000#32] ∧
  (∀ b, (b < 256 → assemble (.crcByte b) = .ok [0x20000000#32 ||| BitVec.ofNat 32 b]) ∧
    (256 ≤ b → assemble (.crcByte b) = .error .operandOutOfRange)) ∧
  (∀ d, (d < 65536 → assemble (.crcWord d) = .ok [0x30000000#32 ||| BitVec.ofNat 32 d]) ∧
    (65536 ≤ d → assemble (.crcWord d) = .error .operandOutOfRange)) ∧
  (∀ c, (c < 256 → assemble (.crcCheck c) = .ok [0x40000000#32 ||| BitVec.ofNat 32 c <<< 16]) ∧
    (256 ≤ c → assemble (.crcCheck c) = .error .operandOutOfRange)) ∧
  (∀ f d, (f ≤ 8 → d < 65536 →
      assemble (.scale (.number f) d) = .ok [0x50000000#32 ||| BitVec.ofNat 32 f <<< 24 ||| BitVec.ofNat 32 d]) ∧
    (8 < f → assemble (.scale (.number f) d) = .error .fieldIndexAbove8) ∧
    (f ≤ 8 → 65536 ≤ d → assemble (.scale (.number f) d) = .error .operandOutOfRange)) ∧
  (∀ f d c, (f ≤ 8 → d < 65536 → c < 256 →
      assemble (.field (.number f) d c) =
        .ok [0x60000000#32 ||| BitVec.ofNat 32 f <<< 24 ||| BitVec.ofNat 32 c <<< 16 ||| BitVec.ofNat 32 d]) ∧
    (8 < f → assemble (.field (.number f) d c) = .error .fieldIndexAbove8) ∧
    (f ≤ 8 → 65536 ≤ d ∨ 256 ≤ c → assemble (.field (.number f) d c) = .error .operandOutOfRange)) ∧
  (∀ (n : FieldName) d c, assemble (.scale (.name n) d) = assemble (.scale (.number n.index.val) d) ∧
    assemble (.field (.name n) d c) = assemble (.field (.number n.index.val) d c)) ∧
  ([FieldName.pm1, .pm2_5, .pm4, .pm10, .rh, .t, .voc, .nox, .co2].map (fun n => n.index.val) =
    [0, 1, 2, 3, 4, 5, 6, 7, 8]) ∧
  (∀ w, (w < 2 ^ 32 → assemble (.rawWord w) = .ok [BitVec.ofNat 32 w]) ∧
    (2 ^ 32 ≤ w → assemble (.rawWord w) = .error .operandOutOfRange))

/-- R65: the expansions of the pseudo-instructions. -/
def Obligations.PseudoInstructionsExpandAsTheSpecSays : Prop :=
  (∀ bs : List Byte, expand (.crcBytes (bs.map BitVec.toNat)) = .ok (bs.map .crcByte)) ∧
  (∀ bs : List Byte, expand (.crcOf (bs.map BitVec.toNat)) = .ok (.crcInit :: bs.map .crcByte)) ∧
  (∀ h l c : Byte, expand (.chkPair h.toNat l.toNat c.toNat) = .ok [.crcInit, .crcWord (h ++ l), .crcCheck c]) ∧
  (∀ fields : List (Half × Byte), fields.length = 9 →
    expand (.chkFrame (fields.map fun p => (p.1.toNat, p.2.toNat))) =
      .ok (.clear :: fields.zipIdx.map fun x => .field (BitVec.ofNat 4 x.2) x.1.2 x.1.1))

/-! ### The CRC-8 generator -/

/-- R67 (with its note on the polynomial x^8 + x^5 + x^4 + 1, bit pattern 0x131): `crc_step(a, b)` is the remainder of
`(a ^ b) * x^8` by that polynomial over two elements: a multiple of the polynomial and the result together make up the
dividend, and the result has degree below 8. -/
def Obligations.CrcStepIsTheRemainderByThePolynomial : Prop :=
  ∀ a b : Byte, ∃ q : Byte,
    (a ^^^ b).setWidth 16 <<< 8 = carrylessMul q 0x131#16 ^^^ (crcStep a b).setWidth 16

/-- R68, R71: folding a sequence is folding its parts in order, and a run of CRC_BYTE over n bytes folds the sequence into
CRC and changes nothing else; from the seed it is SRC's crc8. -/
def Obligations.CrcByteRunsFoldTheSequenceInOrder : Prop :=
  (∀ (a : Byte) (xs ys : List Byte), crcBytes a (xs ++ ys) = crcBytes (crcBytes a xs) ys) ∧
  (∀ (bs : List Byte) (s : State), execAll (bs.map .crcByte) s = .next { s with crc := crcBytes s.crc bs }) ∧
  (∀ (bs : List Byte) (s : State),
    execAll (.crcInit :: bs.map .crcByte) s = .next { s with crc := crcBytes 0xFF#8 bs })

/-- R70: CRC_INIT: its encoding, its effect and its frame (every other register unchanged). -/
def Obligations.CrcInitRestartsTheChecksum : Prop :=
  (∀ w : Word, w.extractLsb' 28 4 = 1#4 → decodeWord w = .crcInit) ∧ encode .crcInit = 0x10000000#32 ∧
  (∀ s, exec .crcInit s = .next { s with crc := 0xFF#8 }) ∧
  (∀ s, s.crc = 0xFF#8 → exec .crcInit s = .next s)

/-- R71: CRC_BYTE: its encoding (F, C and H are ignored), its effect, its frame and its corner cases. -/
def Obligations.CrcByteFoldsItsByte : Prop :=
  (∀ w : Word, w.extractLsb' 28 4 = 2#4 → decodeWord w = .crcByte (w.extractLsb' 0 8)) ∧
  (∀ l s, exec (.crcByte l) s = .next { s with crc := crcStep s.crc l }) ∧
  (∀ s, exec (.crcByte s.crc) s = .next { s with crc := 0x00#8 }) ∧
  (∀ s, s.crc = 0xFF#8 →
    exec (.crcByte 0xFF#8) s = .next { s with crc := 0x00#8 } ∧
    exec (.crcByte 0x00#8) s = .next { s with crc := 0xAC#8 } ∧
    exec (.crcByte 0xBE#8) s = .next { s with crc := 0x0C#8 }) ∧
  (∀ (bs : List Byte) (s : State), s.crc = 0xFF#8 →
    execAll (bs.map .crcByte) s = .next { s with crc := crcBytes 0xFF#8 bs }) ∧
  decodeWord 0x2000AB01#32 = .crcByte 0x01#8

/-- R72: CRC_WORD: its encoding (F and C are ignored), its effect and frame; it is CRC_BYTE of the high byte and then of
the low byte, and it does not re-seed. -/
def Obligations.CrcWordFoldsHighByteThenLowByte : Prop :=
  (∀ w : Word, w.extractLsb' 28 4 = 3#4 → decodeWord w = .crcWord (w.extractLsb' 8 8 ++ w.extractLsb' 0 8)) ∧
  (∀ d s, exec (.crcWord d) s = .next { s with crc := crcWord s.crc d }) ∧
  (∀ (h l : Byte) (s : State), exec (.crcWord (h ++ l)) s = execAll [.crcByte h, .crcByte l] s) ∧
  crcWord 0xFF#8 0xFFFF#16 = 0xAC#8 ∧ crcWord 0xFF#8 0x0000#16 = 0x81#8 ∧ crcWord 0xFF#8 0xBEEF#16 = 0x92#8 ∧
  crcWord 0xFF#8 0xEFBE#16 = 0xCE#8

/-- R73: CRC_CHECK: its encoding, MATCH, the sticky ERR, and its frame. -/
def Obligations.CrcCheckComparesTheAccumulator : Prop :=
  (∀ w : Word, w.extractLsb' 28 4 = 4#4 → decodeWord w = .crcCheck (w.extractLsb' 16 8)) ∧
  (∀ c s, s.crc = c → exec (.crcCheck c) s = .next { s with status := { s.status with matched := true } }) ∧
  (∀ c s, s.crc ≠ c →
    exec (.crcCheck c) s = .next { s with status := { s.status with matched := false, err := true } })

/-- R74: every checksum value is the checksum of exactly 256 field values, and changing any one byte of a triple (H, L, C)
with the right checksum gives a triple whose check fails, in CRC_CHECK's compare and in FIELD. -/
def Obligations.EverySingleByteChangeOfATripleIsDetected : Prop :=
  (∀ c : Byte, ((List.range 65536).filter fun n => crcWord 0xFF#8 (BitVec.ofNat 16 n) == c).length = 256) ∧
  (∀ (h l c h' l' c' : Byte), c = crcWord 0xFF#8 (h ++ l) →
    (h' ≠ h ∧ l' = l ∧ c' = c) ∨ (h' = h ∧ l' ≠ l ∧ c' = c) ∨ (h' = h ∧ l' = l ∧ c' ≠ c) →
    crcWord 0xFF#8 (h' ++ l') ≠ c' ∧
    ∀ (f : FieldIndex) (s : State), ∃ t, exec (.field (BitVec.ofNat 4 f.val) c' (h' ++ l')) s = .next t ∧
      t.status.matched = false ∧ t.status.err = true ∧ t.status.valid = false)

/-! ### The fixed-point scaler -/

/-- R75: `tdiv` is the floor of the quotient of the magnitudes with the sign of `v`, which is the integers' truncating
division; `n * tdiv + trem = v`; the remainder is 0 or has the sign of `v`, and is smaller than `n`. -/
def Obligations.TruncatingDivisionLaws : Prop :=
  ∀ v n : Int, 1 ≤ n →
    (0 ≤ v → tdiv v n = ⌊(v : ℚ) / n⌋) ∧ (v < 0 → tdiv v n = -⌊(-v : ℚ) / n⌋) ∧
    tdiv v n = Int.tdiv v n ∧ trem v n = v - n * tdiv v n ∧ n * tdiv v n + trem v n = v ∧
    (trem v n = 0 ∨ (trem v n).sign = v.sign) ∧ |trem v n| < n

/-- R76: the raw value is the two's complement reading of D for a signed field and the unsigned one otherwise; no value is
special. -/
def Obligations.RawValueIsReadBySignedness : Prop :=
  ∀ (c : Config) (f : FieldIndex) (d : Half),
    (c.isSigned f = true → raw c f d = d.toInt ∧ -32768 ≤ raw c f d ∧ raw c f d ≤ 32767) ∧
    (c.isSigned f = false → raw c f d = (d.toNat : Int) ∧ 0 ≤ raw c f d ∧ raw c f d ≤ 65535)

/-- R80: the engineering value `QUOT_s + REM_s / DIVR` that the host reads after a SCALE equals `raw / DIV[f]` exactly, for
signed and unsigned fields alike; and the three worked values. -/
def Obligations.EngineeringValueIsExact : Prop :=
  (∀ (s : State) (f : FieldIndex) (d : Half),
    ∃ t, exec (.scale (BitVec.ofNat 4 f.val) d) s = .next t ∧
      (t.quot.toInt : ℚ) + (t.rem.toInt : ℚ) / (t.divr.toNat : ℚ) = (raw s.cfg f d : ℚ) / (s.cfg.divisor f : ℚ)) ∧
  (∀ (s : State) (f : FieldIndex) (d : Half),
    ((d = 250#16 ∧ s.cfg.divisor f = 10) → exec (.scale (BitVec.ofNat 4 f.val) d) s = .next { s with
        quot := 25#32, rem := 0#32, divr := 10#16,
        status := { s.status with valid := true, lastf := BitVec.ofNat 4 f.val } }) ∧
    ((d = 4200#16 ∧ s.cfg.divisor f = 200) → exec (.scale (BitVec.ofNat 4 f.val) d) s = .next { s with
        quot := 21#32, rem := 0#32, divr := 200#16,
        status := { s.status with valid := true, lastf := BitVec.ofNat 4 f.val } })) ∧
  (∀ s, exec (.scale 8#4 512#16) s = .next { s with
      quot := 512#32, rem := 0#32, divr := 1#16, status := { s.status with valid := true, lastf := 8#4 } })

/-- R81: ranges, signs, no overflow, and the identity, for every field and operand. -/
def Obligations.ScalerArithmeticLaws : Prop :=
  ∀ (c : Config) (f : FieldIndex) (d : Half),
    (c.isSigned f = false → 0 ≤ (quotient c f d).toInt ∧ (quotient c f d).toInt ≤ 65535) ∧
    (c.isSigned f = true → -32768 ≤ (quotient c f d).toInt ∧ (quotient c f d).toInt ≤ 32767) ∧
    |(remainder c f d).toInt| < c.divisor f ∧ c.divisor f ≤ 200 ∧ 1 ≤ c.divisor f ∧
    (quotient c f d).toInt = tdiv (raw c f d) (c.divisor f) ∧
    (remainder c f d).toInt = trem (raw c f d) (c.divisor f) ∧
    (0 ≤ raw c f d → 0 ≤ (quotient c f d).toInt ∧ 0 ≤ (remainder c f d).toInt) ∧
    (raw c f d < 0 → (quotient c f d).toInt ≤ 0 ∧ (remainder c f d).toInt ≤ 0) ∧
    (quotient c f d).toInt * (BitVec.ofNat 16 (c.divisor f)).toNat + (remainder c f d).toInt = raw c f d

/-- R77, R78: SCALE: its encoding (C is ignored), its effect and frame for a legal index, ILL for a reserved one, and its
corner cases. -/
def Obligations.ScaleDividesTheRawValue : Prop :=
  (∀ w : Word, w.extractLsb' 28 4 = 5#4 → decodeWord w = .scale (w.extractLsb' 24 4) (w.extractLsb' 0 16)) ∧
  (∀ f d s, 9 ≤ f.toNat → exec (.scale f d) s = .next { s with status := { s.status with ill := true } }) ∧
  (∀ (f : FieldIndex) d s, exec (.scale (BitVec.ofNat 4 f.val) d) s = .next { s with
      quot := BitVec.ofInt 32 (tdiv (raw s.cfg f d) (s.cfg.divisor f))
      rem := BitVec.ofInt 32 (trem (raw s.cfg f d) (s.cfg.divisor f))
      divr := BitVec.ofNat 16 (s.cfg.divisor f)
      status := { s.status with valid := true, lastf := BitVec.ofNat 4 f.val } }) ∧
  (∀ (c : Config) (f : FieldIndex) (d : Half), 1 ≤ c.divisor f ∧
    (c.divisor f = 1 → quotient c f d = BitVec.ofInt 32 (raw c f d) ∧ remainder c f d = 0#32) ∧
    (d = 0#16 → quotient c f d = 0#32 ∧ remainder c f d = 0#32) ∧
    (d = 0xFFFF#16 → c.isSigned f = true → c.divisor f = 100 →
      quotient c f d = 0#32 ∧ remainder c f d = 0xFFFFFFFF#32) ∧
    (d = 0x8000#16 → c.isSigned f = true → c.divisor f = 200 →
      quotient c f d = 0xFFFFFF5D#32 ∧ remainder c f d = 0xFFFFFF58#32) ∧
    (d = 0xFFFF#16 → c.isSigned f = false → c.divisor f = 10 →
      quotient c f d = 0x00001999#32 ∧ remainder c f d = 5#32) ∧
    (d = 0x1068#16 → c.divisor f = 200 → quotient c f d = 21#32 ∧ remainder c f d = 0#32))

/-- R79: FIELD: its encoding, its effect and frame on a match and on a mismatch, ILL for a reserved index. The checksum is
always computed from the seed, so the old CRC is in none of the results. -/
def Obligations.FieldChecksThenScales : Prop :=
  crcWord 0xFF#8 0x00FA#16 = 0xD8#8 ∧
  (∀ w : Word, w.extractLsb' 28 4 = 6#4 →
    decodeWord w = .field (w.extractLsb' 24 4) (w.extractLsb' 16 8) (w.extractLsb' 0 16)) ∧
  (∀ f c d s, 9 ≤ f.toNat → exec (.field f c d) s = .next { s with status := { s.status with ill := true } }) ∧
  (∀ (f : FieldIndex) c d s, crcWord 0xFF#8 d = c → exec (.field (BitVec.ofNat 4 f.val) c d) s = .next { s with
      crc := c
      quot := BitVec.ofInt 32 (tdiv (raw s.cfg f d) (s.cfg.divisor f))
      rem := BitVec.ofInt 32 (trem (raw s.cfg f d) (s.cfg.divisor f))
      divr := BitVec.ofNat 16 (s.cfg.divisor f)
      status := { s.status with matched := true, valid := true, lastf := BitVec.ofNat 4 f.val } }) ∧
  (∀ (f : FieldIndex) c d s, crcWord 0xFF#8 d ≠ c → exec (.field (BitVec.ofNat 4 f.val) c d) s = .next { s with
      crc := crcWord 0xFF#8 d
      quot := 0#32
      rem := 0#32
      divr := 0#16
      status := { s.status with matched := false, err := true, valid := false, lastf := BitVec.ofNat 4 f.val } })

/-! ### Control and reserved commands -/

/-- R83: NOP: every word 0x00000000 to 0x0FFFFFFF is one, and it changes no state. -/
def Obligations.NopChangesNothing : Prop :=
  (∀ w : Word, w.extractLsb' 28 4 = 0#4 → decodeWord w = .nop) ∧
  (∀ w : Word, w.toNat ≤ 0x0FFFFFFF → decodeWord w = .nop) ∧ encode .nop = 0x00000000#32 ∧
  (∀ s, exec .nop s = .next s)

/-- R84: CLEAR: its encoding, its effect and frame; it is the only command that clears ERR or ILL; in a reset state it
changes nothing. -/
def Obligations.ClearReturnsEveryRegisterToReset : Prop :=
  (∀ w : Word, w.extractLsb' 28 4 = 7#4 → decodeWord w = .clear) ∧ encode .clear = 0x70000000#32 ∧
  (∀ s, exec .clear s = .next { s with
      crc := 0xFF#8
      status := { matched := false, err := false, valid := false, ill := false, lastf := 0#4 }
      quot := 0#32
      rem := 0#32
      divr := 0#16 }) ∧
  (∀ (i : Instr) (s t : State), exec i s = .next t →
    (s.status.err = true ∧ t.status.err = false) ∨ (s.status.ill = true ∧ t.status.ill = false) → i = .clear) ∧
  (∀ s, AtResetValues s → exec .clear s = .next s)

/-- R60, R61, R90: a reserved word sets ILL, changes no other state and is no trap; with an opcode other than SCALE's and
FIELD's, F is ignored. -/
def Obligations.ReservedWordsRaiseIllAndChangeNothingElse : Prop :=
  (∀ (w : Word) (s : State), ReservedWord w →
    exec (decodeWord w) s = .next { s with status := { s.status with ill := true } }) ∧
  (∀ (op : BitVec 4) (s : State), exec (.reserved op) s = .next { s with status := { s.status with ill := true } }) ∧
  (∀ (w : Word) (s : State), w.extractLsb' 28 4 ≠ 5#4 → w.extractLsb' 28 4 ≠ 6#4 →
    exec (decodeWord w) s = exec (decodeWord (w &&& 0xF0FFFFFF#32)) s)

/-- R91: raising ILL sets one bit and keeps every other register, and the block goes on: a later command other than CLEAR
does what it would have done, with ILL still 1. -/
def Obligations.RaisedIllDoesNotDisturbLaterCommands : Prop :=
  (∀ s : State, s.raiseIll = { s with status := { s.status with ill := true } }) ∧
  (∀ (i : Instr) (s t : State), i ≠ .clear → exec i s = .next t → exec i s.raiseIll = .next t.raiseIll)

/-! ### The status register over whole runs -/

/-- R24, R38: a command writes only the flags of its row: each flag that differs after a command names the commands it can
have been. -/
def Obligations.FlagsChangeOnlyByTheirCommands : Prop :=
  ∀ (i : Instr) (s t : State), exec i s = .next t →
    (t.status.matched ≠ s.status.matched → (∃ c, i = .crcCheck c) ∨ (∃ f c d, i = .field f c d) ∨ i = .clear) ∧
    (s.status.err = false → t.status.err = true → (∃ c, i = .crcCheck c) ∨ (∃ f c d, i = .field f c d)) ∧
    (s.status.err = true → t.status.err = false → i = .clear) ∧
    (s.status.valid = false → t.status.valid = true → (∃ f d, i = .scale f d) ∨ (∃ f c d, i = .field f c d)) ∧
    (s.status.valid = true → t.status.valid = false → (∃ f c d, i = .field f c d) ∨ i = .clear) ∧
    (s.status.ill = false → t.status.ill = true →
      (∃ op, i = .reserved op) ∨ (∃ f d, i = .scale f d ∧ 9 ≤ f.toNat) ∨ (∃ f c d, i = .field f c d ∧ 9 ≤ f.toNat)) ∧
    (s.status.ill = true → t.status.ill = false → i = .clear) ∧
    (t.status.lastf ≠ s.status.lastf → (∃ f d, i = .scale f d) ∨ (∃ f c d, i = .field f c d) ∨ i = .clear)

/-- R22, R31 to R33: CRC and the result registers change only by the commands the spec lists, and no command touches the
host's side of the machine (the model's own fields). -/
def Obligations.RegistersChangeOnlyByTheirCommands : Prop :=
  ∀ (i : Instr) (s : State), ∃ t, exec i s = .next t ∧
    (t.crc ≠ s.crc → i = .crcInit ∨ (∃ l, i = .crcByte l) ∨ (∃ d, i = .crcWord d) ∨ (∃ f c d, i = .field f c d) ∨
      i = .clear) ∧
    (t.quot ≠ s.quot ∨ t.rem ≠ s.rem ∨ t.divr ≠ s.divr →
      (∃ f d, i = .scale f d) ∨ (∃ f c d, i = .field f c d) ∨ i = .clear) ∧
    t.cfg = s.cfg ∧ t.pending = s.pending ∧ t.readout = s.readout

/-- R38: no command reads a flag as an operand: two states that differ in STATUS alone give the same CRC and result
registers after any command. -/
def Obligations.NoCommandReadsAFlag : Prop :=
  ∀ (i : Instr) (s : State) (st : Status), ∃ t u, exec i s = .next t ∧ exec i { s with status := st } = .next u ∧
    u.crc = t.crc ∧ u.quot = t.quot ∧ u.rem = t.rem ∧ u.divr = t.divr

/-- R25: MATCH is the result of the latest compare: a compare writes it, CLEAR writes 0, every other command leaves it. -/
def Obligations.MatchIsTheResultOfTheLatestCompare : Prop :=
  ∀ (w : Word) (s : State), ∃ t, exec (decodeWord w) s = .next t ∧
    (CompareSucceeds w s → t.status.matched = true) ∧ (CompareFails w s → t.status.matched = false) ∧
    (w.extractLsb' 28 4 = 7#4 → t.status.matched = false) ∧
    (¬ CompareSucceeds w s → ¬ CompareFails w s → w.extractLsb' 28 4 ≠ 7#4 → t.status.matched = s.status.matched)

/-- R26: ERR is sticky. A failing compare sets it, a succeeding one leaves it, only CLEAR and reset clear it, and from a
CLEAR or reset on it is 1 exactly when some compare failed, whatever the host did in between. -/
def Obligations.ErrIsOneExactlyWhenSomeCompareFailed : Prop :=
  (∀ (w : Word) (s : State), ∃ t, exec (decodeWord w) s = .next t ∧
    (CompareFails w s → t.status.err = true) ∧ (CompareSucceeds w s → t.status.err = s.status.err)) ∧
  (∀ (e : HostEvent) (s t : State), perform e s = .next t → s.status.err = true → t.status.err = false →
    e.Clears s.cfg) ∧
  (∀ (e : HostEvent) (s : State), e.Clears s.cfg → ∃ t, perform e s = .next t ∧ t.status.err = false) ∧
  (∀ (e : HostEvent) (es : List HostEvent) (s s0 t : State), e.Clears s.cfg → perform e s = .next s0 →
    (∀ x ∈ es, ¬ x.Clears s.cfg) → performAll es s0 = .next t →
    (t.status.err = true ↔
      ∃ before w after m, es = before ++ cmdWrite s.cfg w :: after ∧ performAll before s0 = .next m ∧
        CompareFails w m))

/-- R27, step by step: if the result registers hold what the accesses so far have left, then after any step they hold what
the access it performed leaves; a step with none pending leaves them. Every state that meets the hypothesis counts, not
only one that a run reaches; that a reset block meets it for `none` is the empty list in the statement below. -/
def Obligations.EveryStepKeepsTheResultRegistersTrueToTheHistory : Prop :=
  ∀ (before : Option (FieldIndex × Half)) (s t : State), HoldsResult s before → step s = .next t →
    (∀ e rest, s.pending = e :: rest → HoldsResult t (scalingAfter s.cfg before e)) ∧
    (s.pending = [] → HoldsResult t before)

/-- R27: whatever accesses a reset block has seen, VALID is 1 exactly when the result registers hold the result of the
latest SCALE, or of the latest FIELD whose compare succeeded, not cleared since, and they then hold exactly that result;
otherwise they are 0. -/
def Obligations.ResultRegistersHoldTheLatestUnclearedScaling : Prop :=
  ∀ (c : Config) (es : List HostEvent) (t : State), performAll es (State.resetWith c) = .next t →
    match es.foldl (scalingAfter c) none with
    | none => t.status.valid = false ∧ t.quot = 0#32 ∧ t.rem = 0#32 ∧ t.divr = 0#16
    | some (f, d) => t.status.valid = true ∧ t.cfg = c ∧ HoldsScaling t f d

/-- R28: ILL is sticky: a reserved word sets it, nothing but a reserved word does, only CLEAR and reset clear it. -/
def Obligations.IllIsSetByReservedWordsAndClearedByClearOrReset : Prop :=
  (∀ (w : Word) (s : State), ReservedWord w → ∃ t, exec (decodeWord w) s = .next t ∧ t.status.ill = true) ∧
  (∀ (e : HostEvent) (s t : State), perform e s = .next t → s.status.ill = false → t.status.ill = true →
    ∃ w, e = cmdWrite s.cfg w ∧ ReservedWord w) ∧
  (∀ (e : HostEvent) (s t : State), perform e s = .next t → s.status.ill = true → t.status.ill = false →
    e.Clears s.cfg) ∧
  (∀ (e : HostEvent) (s : State), e.Clears s.cfg → ∃ t, perform e s = .next t ∧ t.status.ill = false)

/-- R29: LASTF names the field of the latest SCALE or FIELD with a legal index, whatever FIELD's compare gave; CLEAR and
reset write 0; a command that raises ILL does not change it; in every reachable state it is 0 to 8. -/
def Obligations.LastfNamesTheLatestField : Prop :=
  (∀ (f : FieldIndex) (d : Half) (s : State), ∃ t, exec (.scale (BitVec.ofNat 4 f.val) d) s = .next t ∧
    t.status.lastf = BitVec.ofNat 4 f.val) ∧
  (∀ (f : FieldIndex) (c : Byte) (d : Half) (s : State), ∃ t, exec (.field (BitVec.ofNat 4 f.val) c d) s = .next t ∧
    t.status.lastf = BitVec.ofNat 4 f.val) ∧
  (∀ (e : HostEvent) (s : State), e.Clears s.cfg → ∃ t, perform e s = .next t ∧ t.status.lastf = 0#4) ∧
  (∀ (w : Word) (s : State), ReservedWord w → ∃ t, exec (decodeWord w) s = .next t ∧
    t.status.lastf = s.status.lastf) ∧
  (∀ (c : Config) (s : State), Reachable c s → s.status.lastf.toNat ≤ 8)

/-- R94, R95: the STATUS read after a CMD write shows exactly the conditions that write raised together with the sticky
bits from earlier: ERR and ILL after any command word. -/
def Obligations.StatusShowsTheConditionsRaisedAndTheStickyBits : Prop :=
  ∀ (w : Word) (s : State), ∃ t, exec (decodeWord w) s = .next t ∧
    (t.status.err = true ↔ w.extractLsb' 28 4 ≠ 7#4 ∧ (s.status.err = true ∨ CompareFails w s)) ∧
    (t.status.ill = true ↔ w.extractLsb' 28 4 ≠ 7#4 ∧ (s.status.ill = true ∨ ReservedWord w))

/-- R92: one command reports either ILL or a mismatch, never both; a command that raises ILL makes no compare. -/
def Obligations.OneCommandReportsIllOrMismatchNeverBoth : Prop :=
  ∀ (w : Word) (s : State), ∃ t, exec (decodeWord w) s = .next t ∧
    ¬ (s.status.ill = false ∧ s.status.err = false ∧ t.status.ill = true ∧ t.status.err = true) ∧
    (ReservedWord w → t.status.matched = s.status.matched ∧ t.status.err = s.status.err ∧ t.crc = s.crc)

/-! ### Invariants of the machine -/

/-- The invariant holds of every block right after reset. -/
def Obligations.InvariantHoldsAtReset : Prop :=
  State.reset.Inv ∧ ∀ c, (State.resetWith c).Inv

/-- Every step keeps the invariant, from every state that meets it, whatever access is pending. -/
def Obligations.EveryStepKeepsTheInvariant : Prop :=
  ∀ s t : State, s.Inv → step s = .next t → t.Inv

/-- R37: what holds in every reachable state: the result registers are 0 when VALID is 0; when VALID is 1, they hold the
scaling of one raw value (QUOT, REM and DIVR all of that same value), DIVR is the divisor of the field LASTF names, REM is
smaller than DIVR and is 0 or has the sign of that raw value; LASTF is at most 8; and a state with ERR and MATCH both 0 is
possible, after reset and after CRC_INIT only. -/
def Obligations.ReachableStatesMeetTheInvariantsOfTheSpec : Prop :=
  (∀ (c : Config) (s : State), Reachable c s →
    (s.status.valid = false → s.quot = 0#32 ∧ s.rem = 0#32 ∧ s.divr = 0#16) ∧
    (s.status.valid = true → s.cfg = c ∧ ∃ (f : FieldIndex) (d : Half), HoldsScaling s f d ∧
      s.status.lastf.toNat = f.val ∧ s.divr.toNat = c.divisor f ∧ |s.rem.toInt| < s.divr.toNat ∧
      (s.rem.toInt = 0 ∨ s.rem.toInt.sign = (raw c f d).sign)) ∧
    s.status.lastf.toNat ≤ 8) ∧
  (∀ c, Reachable c (State.resetWith c) ∧ (State.resetWith c).status.err = false ∧
    (State.resetWith c).status.matched = false ∧
    ∃ t, exec .crcInit (State.resetWith c) = .next t ∧ Reachable c t ∧ t.status.err = false ∧ t.status.matched = false)

/-- R26, R65, R79, R82: all or nothing. After `chk.frame`'s commands on nine triples, from any state, ERR is 0 exactly when
every field's computed checksum equals its transmitted checksum byte. -/
def Obligations.FrameOfNineFieldsIsAcceptedExactlyWhenEveryChecksumMatches : Prop :=
  ∀ (fields : List (Half × Byte)) (s : State), fields.length = 9 →
    ∃ t, execAll (frameCommands fields) s = .next t ∧
      (t.status.err = false ↔ ∀ p ∈ fields, crcWord 0xFF#8 p.1 = p.2)
end

