-- ==== Sys2Proof/Laws/Scale.lean ====
section
/-! SUPPORT. The scaler's arithmetic: divisors are positive and small, raw values are 16 bits, the division is the
truncating one (spec 00_scope.md R6; 41_scale.md R75 to R77, R81). -/

namespace Sys2Proof.Machine

/-- A divisor is one of the four of R6. -/
theorem divisor_cases (c : Config) (f : FieldIndex) :
    c.divisor f = 1 ∨ c.divisor f = 10 ∨ c.divisor f = 100 ∨ c.divisor f = 200 := by
  unfold Config.divisor
  cases c.divEntry f <;> simp [Divisor.value]

/-- Division by zero cannot occur (41_scale.md R77). -/
theorem divisor_pos (c : Config) (f : FieldIndex) : 0 < c.divisor f := by
  rcases divisor_cases c f with h | h | h | h <;> omega

theorem divisor_le (c : Config) (f : FieldIndex) : c.divisor f ≤ 200 := by
  rcases divisor_cases c f with h | h | h | h <;> omega

/-- An index the block accepts is below 9, and stands for itself. -/
theorem fieldIndex?_ofNat (f : FieldIndex) : fieldIndex? (BitVec.ofNat 4 f.val) = some f := by
  revert f; decide

theorem fieldIndex?_eq_some {f : BitVec 4} {i : FieldIndex} :
    fieldIndex? f = some i ↔ f = BitVec.ofNat 4 i.val := by
  revert f i; decide

/-- The reserved indices are exactly 9 to 15 (30_encoding.md R61). -/
theorem fieldIndex?_eq_none {f : BitVec 4} : fieldIndex? f = none ↔ 9 ≤ f.toNat := by
  revert f; decide

/-- The model's quotient is the integers' own truncating division. -/
theorem tdiv_eq (v n : Int) : tdiv v n = Int.tdiv v n := by
  unfold tdiv
  split
  · next h => rw [Int.tdiv_eq_ediv_of_nonneg h]
  · next h =>
    have hv : v = -(-v) := by omega
    conv_rhs => rw [hv, Int.neg_tdiv, Int.tdiv_eq_ediv_of_nonneg (by omega)]

/-- The model's remainder is the truncating one, with the dividend's sign. -/
theorem trem_eq (v n : Int) : trem v n = Int.tmod v n := by
  rw [trem, tdiv_eq, Int.tmod_def]

/-- A raw value lies in the 16-bit range of its signedness (41_scale.md R76). -/
theorem raw_range (c : Config) (f : FieldIndex) (d : Half) :
    (c.isSigned f = true → -32768 ≤ raw c f d ∧ raw c f d ≤ 32767) ∧
    (c.isSigned f = false → 0 ≤ raw c f d ∧ raw c f d ≤ 65535) := by
  have h := d.isLt
  constructor
  · intro hs
    simp only [raw, hs, if_true]
    split <;> omega
  · intro hs
    simp only [raw, hs, Bool.false_eq_true, if_false]
    omega

end Sys2Proof.Machine
end

