-- ==== Sys2Proof/Laws/State.lean ====
section
/-! SUPPORT. One lemma per field per update of State and Status, true by computation, and what each composite update
leaves alone. -/

namespace Sys2Proof.Machine

section setCrc
variable (s : State) (v : Byte)
@[simp] theorem setCrc_cfg : (s.setCrc v).cfg = s.cfg := rfl
@[simp] theorem setCrc_crc : (s.setCrc v).crc = v := rfl
@[simp] theorem setCrc_status : (s.setCrc v).status = s.status := rfl
@[simp] theorem setCrc_quot : (s.setCrc v).quot = s.quot := rfl
@[simp] theorem setCrc_rem : (s.setCrc v).rem = s.rem := rfl
@[simp] theorem setCrc_divr : (s.setCrc v).divr = s.divr := rfl
@[simp] theorem setCrc_pending : (s.setCrc v).pending = s.pending := rfl
@[simp] theorem setCrc_readout : (s.setCrc v).readout = s.readout := rfl
end setCrc

section setStatus
variable (s : State) (st : Status)
@[simp] theorem setStatus_cfg : (s.setStatus st).cfg = s.cfg := rfl
@[simp] theorem setStatus_crc : (s.setStatus st).crc = s.crc := rfl
@[simp] theorem setStatus_status : (s.setStatus st).status = st := rfl
@[simp] theorem setStatus_quot : (s.setStatus st).quot = s.quot := rfl
@[simp] theorem setStatus_rem : (s.setStatus st).rem = s.rem := rfl
@[simp] theorem setStatus_divr : (s.setStatus st).divr = s.divr := rfl
@[simp] theorem setStatus_pending : (s.setStatus st).pending = s.pending := rfl
@[simp] theorem setStatus_readout : (s.setStatus st).readout = s.readout := rfl
end setStatus

section setResult
variable (s : State) (q r : Word) (n : Half)
@[simp] theorem setResult_cfg : (s.setResult q r n).cfg = s.cfg := rfl
@[simp] theorem setResult_crc : (s.setResult q r n).crc = s.crc := rfl
@[simp] theorem setResult_status : (s.setResult q r n).status = s.status := rfl
@[simp] theorem setResult_quot : (s.setResult q r n).quot = q := rfl
@[simp] theorem setResult_rem : (s.setResult q r n).rem = r := rfl
@[simp] theorem setResult_divr : (s.setResult q r n).divr = n := rfl
@[simp] theorem setResult_pending : (s.setResult q r n).pending = s.pending := rfl
@[simp] theorem setResult_readout : (s.setResult q r n).readout = s.readout := rfl
end setResult

section setPending
variable (s : State) (es : List HostEvent)
@[simp] theorem setPending_cfg : (s.setPending es).cfg = s.cfg := rfl
@[simp] theorem setPending_crc : (s.setPending es).crc = s.crc := rfl
@[simp] theorem setPending_status : (s.setPending es).status = s.status := rfl
@[simp] theorem setPending_quot : (s.setPending es).quot = s.quot := rfl
@[simp] theorem setPending_rem : (s.setPending es).rem = s.rem := rfl
@[simp] theorem setPending_divr : (s.setPending es).divr = s.divr := rfl
@[simp] theorem setPending_pending : (s.setPending es).pending = es := rfl
@[simp] theorem setPending_readout : (s.setPending es).readout = s.readout := rfl
end setPending

section setReadout
variable (s : State) (v : Word)
@[simp] theorem setReadout_cfg : (s.setReadout v).cfg = s.cfg := rfl
@[simp] theorem setReadout_crc : (s.setReadout v).crc = s.crc := rfl
@[simp] theorem setReadout_status : (s.setReadout v).status = s.status := rfl
@[simp] theorem setReadout_quot : (s.setReadout v).quot = s.quot := rfl
@[simp] theorem setReadout_rem : (s.setReadout v).rem = s.rem := rfl
@[simp] theorem setReadout_divr : (s.setReadout v).divr = s.divr := rfl
@[simp] theorem setReadout_pending : (s.setReadout v).pending = s.pending := rfl
@[simp] theorem setReadout_readout : (s.setReadout v).readout = some v := rfl
end setReadout

section status
variable (st : Status) (m : Bool) (f : FieldIndex)
@[simp] theorem compared_matched : (st.compared m).matched = m := rfl
@[simp] theorem compared_err : (st.compared m).err = (st.err || !m) := rfl
@[simp] theorem compared_valid : (st.compared m).valid = st.valid := rfl
@[simp] theorem compared_ill : (st.compared m).ill = st.ill := rfl
@[simp] theorem compared_lastf : (st.compared m).lastf = st.lastf := rfl
@[simp] theorem setValid_matched : (st.setValid m).matched = st.matched := rfl
@[simp] theorem setValid_err : (st.setValid m).err = st.err := rfl
@[simp] theorem setValid_valid : (st.setValid m).valid = m := rfl
@[simp] theorem setValid_ill : (st.setValid m).ill = st.ill := rfl
@[simp] theorem setValid_lastf : (st.setValid m).lastf = st.lastf := rfl
@[simp] theorem setIll_matched : st.setIll.matched = st.matched := rfl
@[simp] theorem setIll_err : st.setIll.err = st.err := rfl
@[simp] theorem setIll_valid : st.setIll.valid = st.valid := rfl
@[simp] theorem setIll_ill : st.setIll.ill = true := rfl
@[simp] theorem setIll_lastf : st.setIll.lastf = st.lastf := rfl
@[simp] theorem setLastf_matched : (st.setLastf f).matched = st.matched := rfl
@[simp] theorem setLastf_err : (st.setLastf f).err = st.err := rfl
@[simp] theorem setLastf_valid : (st.setLastf f).valid = st.valid := rfl
@[simp] theorem setLastf_ill : (st.setLastf f).ill = st.ill := rfl
@[simp] theorem setLastf_lastf : (st.setLastf f).lastf = BitVec.ofNat 4 f.val := rfl
end status

/-- Raising ILL sets one bit (60_exceptions.md R91). -/
theorem raiseIll_eq (s : State) : s.raiseIll = { s with status := { s.status with ill := true } } := rfl

/-- Recording a compare writes MATCH and ERR only (10_state.md R25, R26). -/
theorem compared_eq (s : State) (m : Bool) :
    s.compared m = { s with status := { s.status with matched := m, err := s.status.err || !m } } := rfl

/-- A scaling writes the three result registers, VALID and LASTF (41_scale.md R77). -/
theorem scale_eq (s : State) (f : FieldIndex) (d : Half) :
    s.scale f d =
      { s with
        quot := quotient s.cfg f d
        rem := remainder s.cfg f d
        divr := BitVec.ofNat 16 (s.cfg.divisor f)
        status := { s.status with valid := true, lastf := BitVec.ofNat 4 f.val } } := rfl

/-- Dropping the result writes the three result registers and VALID (41_scale.md R79). -/
theorem dropResult_eq (s : State) :
    s.dropResult =
      { s with quot := 0#32, rem := 0#32, divr := 0#16, status := { s.status with valid := false } } := rfl

/-- Clearing gives the registers of a block right after reset and keeps the rest (42_control.md R84). -/
theorem cleared_eq (s : State) :
    s.cleared = { State.resetWith s.cfg with pending := s.pending, readout := s.readout } := rfl

/-- The reset event and CLEAR have the same effect on the state (70_reset_and_hazards.md R99). -/
theorem afterReset_eq_cleared (s : State) : s.afterReset = s.cleared := rfl

end Sys2Proof.Machine
end

