-- ==== Sys2Proof/Laws/Commands.lean ====
section
/-! SUPPORT. What SCALE and FIELD can do, said once: ILL for a reserved index, else the effect in terms of the shared
operations (spec 41_scale.md R78, R79). -/

namespace Sys2Proof.Machine

theorem execScale_reserved {f : BitVec 4} (h : fieldIndex? f = none) (d : Half) (s : State) :
    execScale f d s = .next s.raiseIll := by
  simp [execScale, h]

theorem execScale_legal {f : BitVec 4} {i : FieldIndex} (h : fieldIndex? f = some i) (d : Half) (s : State) :
    execScale f d s = .next (s.scale i d) := by
  simp [execScale, h]

theorem execField_reserved {f : BitVec 4} (h : fieldIndex? f = none) (c : Byte) (d : Half) (s : State) :
    execField f c d s = .next s.raiseIll := by
  simp [execField, h]

theorem execField_legal {f : BitVec 4} {i : FieldIndex} (h : fieldIndex? f = some i) (c : Byte) (d : Half)
    (s : State) : execField f c d s = .next (s.checkField i c d) := by
  simp [execField, h]

/-- FIELD's state after a match: checksum, compare, scaling. -/
theorem checkField_of_match {s : State} {i : FieldIndex} {c : Byte} {d : Half} (h : crcWord crcSeed d = c) :
    s.checkField i c d = ((s.setCrc c).compared true).scale i d := by
  simp [State.checkField, h]

/-- FIELD's state after a mismatch: checksum, compare, result dropped, the field named. -/
theorem checkField_of_mismatch {s : State} {i : FieldIndex} {c : Byte} {d : Half} (h : crcWord crcSeed d ≠ c) :
    s.checkField i c d =
      { s with
        crc := crcWord crcSeed d, quot := 0#32, rem := 0#32, divr := 0#16
        status := { s.status with matched := false, err := true, valid := false, lastf := BitVec.ofNat 4 i.val } } := by
  have hb : (crcWord crcSeed d == c) = false := by simpa using h
  simp [State.checkField, hb, State.compared, State.dropResult, State.setStatus, State.setCrc, State.setResult,
    Status.compared, Status.setValid, Status.setLastf]

end Sys2Proof.Machine
end

