-- ==== Sys2Proof/Laws/Crc.lean ====
section
/-! SUPPORT. The algebra of the CRC: each round is linear and loses nothing (spec 40_crc.md R67 to R69). -/

namespace Sys2Proof.Machine

/-- One round commutes with exclusive-or. -/
theorem crcRound_xor (x y : Byte) : crcRound (x ^^^ y) = crcRound x ^^^ crcRound y := by
  have comm (a b c : Byte) : a ^^^ (b ^^^ c) = b ^^^ (a ^^^ c) := by
    rw [← BitVec.xor_assoc, BitVec.xor_comm a b, BitVec.xor_assoc]
  unfold crcRound
  cases hx : x.msb <;> cases hy : y.msb <;>
    simp [BitVec.msb_xor, hx, hy, BitVec.shiftLeft_xor_distrib, BitVec.xor_assoc, comm, BitVec.xor_comm]

theorem crcRounds_xor (n : Nat) (x y : Byte) : crcRounds n (x ^^^ y) = crcRounds n x ^^^ crcRounds n y := by
  induction n generalizing x y with
  | zero => rfl
  | succ n ih => simp [crcRounds, crcRound_xor, ih]

/-- Rounds done one after the other add up. -/
theorem crcRounds_add (m n : Nat) (x : Byte) : crcRounds (m + n) x = crcRounds n (crcRounds m x) := by
  induction m generalizing x with
  | zero => simp [crcRounds]
  | succ m ih => rw [Nat.succ_add]; exact ih (crcRound x)

/-- A round's input can be told from its output: the polynomial's constant term is nonzero. -/
theorem crcRound_injective {x y : Byte} (h : crcRound x = crcRound y) : x = y := by
  have hz : ∀ v : Byte, crcRound v = 0#8 → v = 0#8 := by decide
  have h0 : crcRound (x ^^^ y) = 0#8 := by rw [crcRound_xor, h, BitVec.xor_self]
  exact BitVec.xor_eq_zero_iff.mp (hz _ h0)

theorem crcRounds_injective (n : Nat) {x y : Byte} (h : crcRounds n x = crcRounds n y) : x = y := by
  induction n generalizing x y with
  | zero => exact h
  | succ n ih => exact crcRound_injective (ih h)

/-- `crc_step` is a byte's exclusive-or with the accumulator, then eight rounds. -/
theorem crcStep_eq (a b : Byte) : crcStep a b = crcRounds 8 (a ^^^ b) := rfl

/-- Different bytes into one accumulator give different accumulators. -/
theorem crcStep_right_injective {a b b' : Byte} (h : crcStep a b = crcStep a b') : b = b' :=
  by simpa using crcRounds_injective 8 h

/-- One byte into different accumulators gives different accumulators. -/
theorem crcStep_left_injective {a a' b : Byte} (h : crcStep a b = crcStep a' b) : a = a' :=
  by simpa using crcRounds_injective 8 h

@[simp] theorem crcBytes_nil (a : Byte) : crcBytes a [] = a := rfl

@[simp] theorem crcBytes_cons (a b : Byte) (bs : List Byte) : crcBytes a (b :: bs) = crcBytes (crcStep a b) bs := rfl

/-- A word is its two bytes, high byte first (R69). -/
theorem crcWord_eq_crcBytes (a : Byte) (d : Half) : crcWord a d = crcBytes a [highByte d, lowByte d] := rfl

@[simp] theorem highByte_append (h l : Byte) : highByte (h ++ l) = h := by
  ext k hk
  simp only [highByte, BitVec.getElem_extractLsb', BitVec.getLsbD_append]
  simp [show ¬ 8 + k < 8 by omega, hk, BitVec.getLsbD_eq_getElem]

@[simp] theorem lowByte_append (h l : Byte) : lowByte (h ++ l) = l := by
  ext k hk
  simp only [lowByte, BitVec.getElem_extractLsb', BitVec.getLsbD_append]
  simp [hk, BitVec.getLsbD_eq_getElem]

end Sys2Proof.Machine
end

