-- ==== Sys2Proof/Laws/Decode.lean ====
section
/-! SUPPORT. The fields of a packed word, each read back whole: no bit of an encoding is dropped
(spec 30_encoding.md R56, R57). -/

namespace Sys2Proof

section pack
variable (op f : BitVec 4) (c : Byte) (d : Half)

@[simp] theorem opField_packWord : opField (packWord op f c d) = op := by
  ext k hk
  simp only [opField, packWord, BitVec.getElem_extractLsb', BitVec.getLsbD_append]
  simp [show ¬ 28 + k < 16 by omega, show ¬ 28 + k - 16 < 8 by omega, show ¬ 28 + k - 16 - 8 < 4 by omega,
    show 28 + k - 16 - 8 - 4 = k by omega, hk, BitVec.getLsbD_eq_getElem]

@[simp] theorem fField_packWord : fField (packWord op f c d) = f := by
  ext k hk
  simp only [fField, packWord, BitVec.getElem_extractLsb', BitVec.getLsbD_append]
  simp [show ¬ 24 + k < 16 by omega, show ¬ 24 + k - 16 < 8 by omega, show 24 + k - 16 - 8 = k by omega, hk, BitVec.getLsbD_eq_getElem]

@[simp] theorem cField_packWord : cField (packWord op f c d) = c := by
  ext k hk
  simp only [cField, packWord, BitVec.getElem_extractLsb', BitVec.getLsbD_append]
  simp [hk, BitVec.getLsbD_eq_getElem]

@[simp] theorem dField_packWord : dField (packWord op f c d) = d := by
  ext k hk
  simp only [dField, packWord, BitVec.getElem_extractLsb', BitVec.getLsbD_append]
  simp [hk, BitVec.getLsbD_eq_getElem]

@[simp] theorem lField_packWord (h l : Byte) : lField (packWord op f c (h ++ l)) = l := by
  ext k hk
  simp only [lField, packWord, BitVec.getElem_extractLsb', BitVec.getLsbD_append]
  simp [hk, show k < 16 by omega, BitVec.getLsbD_eq_getElem]

end pack

/-! The command a word decodes to, one equation per opcode (R58). -/

section opcode
variable {w : Word}

theorem decodeWord_nop (h : opField w = 0#4) : decodeWord w = .nop := by
  unfold decodeWord; rw [h]; rfl

theorem decodeWord_crcInit (h : opField w = 1#4) : decodeWord w = .crcInit := by
  unfold decodeWord; rw [h]; rfl

theorem decodeWord_crcByte (h : opField w = 2#4) : decodeWord w = .crcByte (lField w) := by
  unfold decodeWord; rw [h]; rfl

theorem decodeWord_crcWord (h : opField w = 3#4) : decodeWord w = .crcWord (dField w) := by
  unfold decodeWord; rw [h]; rfl

theorem decodeWord_crcCheck (h : opField w = 4#4) : decodeWord w = .crcCheck (cField w) := by
  unfold decodeWord; rw [h]; rfl

theorem decodeWord_scale (h : opField w = 5#4) : decodeWord w = .scale (fField w) (dField w) := by
  unfold decodeWord; rw [h]; rfl

theorem decodeWord_field (h : opField w = 6#4) : decodeWord w = .field (fField w) (cField w) (dField w) := by
  unfold decodeWord; rw [h]; rfl

theorem decodeWord_clear (h : opField w = 7#4) : decodeWord w = .clear := by
  unfold decodeWord; rw [h]; rfl

end opcode

/-- The one check of a well-formed instruction (R60). -/
theorem wellFormed_reserved (op : BitVec 4) : (Instr.reserved op).WellFormed ↔ 8 ≤ op.toNat := by
  simp [Instr.WellFormed, Instr.wf]

/-- A reserved opcode decodes to the reserved command that carries it (R60). -/
theorem decodeWord_reserved {w : Word} (h : 8 ≤ (opField w).toNat) : decodeWord w = .reserved (opField w) := by
  unfold decodeWord
  split <;> first | rfl | (rename_i e; rw [e] at h; exact absurd h (by decide))

/-- An opcode is one of the eight of R58 or reserved. -/
theorem op_cases (op : BitVec 4) :
    op = 0#4 ∨ op = 1#4 ∨ op = 2#4 ∨ op = 3#4 ∨ op = 4#4 ∨ op = 5#4 ∨ op = 6#4 ∨ op = 7#4 ∨ 8 ≤ op.toNat := by
  revert op; decide

/-- `D = (H, L)` (R57). -/
theorem dField_eq_append (w : Word) : dField w = (w.extractLsb' 8 8 ++ w.extractLsb' 0 8 : Half) := by
  ext k hk
  simp only [← BitVec.getLsbD_eq_getElem, dField, BitVec.getLsbD_append, BitVec.getLsbD_extractLsb']
  split
  · simp [*]
  · simp [hk, show 8 + (k - 8) = k by omega, show k - 8 < 8 by omega]

/-- The decoder answers every string of at most 32 bits (R55, R63). -/
theorem decodeTableWord_eq (nbits w : Nat) (h : nbits ≤ 32) :
    decodeTableWord nbits w = some (decodeWord (BitVec.ofNat 32 (w % 2 ^ nbits))) := by
  simp [decodeTableWord, decodeBits, Nat.not_lt.mpr h]

end Sys2Proof
end

