-- ==== Sys2Proof/Laws/PerInstr.lean ====
section
/-! SUPPORT. The per-instruction family `EncodesItsOpcode`: the canonical word of every instruction has the opcode of
its row (spec 30_encoding.md R58, R64), and is read with no help from any other field. -/

namespace Sys2Proof.Laws.EncodesItsOpcode

/-- The opcode of an instruction's row (R58). -/
def opcodeOf : Instr → BitVec 4
  | .nop => 0#4
  | .crcInit => 1#4
  | .crcByte _ => 2#4
  | .crcWord _ => 3#4
  | .crcCheck _ => 4#4
  | .scale _ _ => 5#4
  | .field _ _ _ => 6#4
  | .clear => 7#4
  | .reserved op => op

/-- Bits 31:28 of the canonical word are the row's opcode. -/
def Statement (i : Instr) : Prop := opField (encode i) = opcodeOf i

theorem nop : Statement .nop := opField_packWord ..
theorem crcInit : Statement .crcInit := opField_packWord ..
theorem crcByte (l : Byte) : Statement (.crcByte l) := opField_packWord ..
theorem crcWord (d : Half) : Statement (.crcWord d) := opField_packWord ..
theorem crcCheck (c : Byte) : Statement (.crcCheck c) := opField_packWord ..
theorem scale (f : BitVec 4) (d : Half) : Statement (.scale f d) := opField_packWord ..
theorem field (f : BitVec 4) (c : Byte) (d : Half) : Statement (.field f c d) := opField_packWord ..
theorem clear : Statement .clear := opField_packWord ..
theorem reserved (op : BitVec 4) : Statement (.reserved op) := opField_packWord ..

end Sys2Proof.Laws.EncodesItsOpcode
end

