-- ==== Sys2Proof/Laws/Window.lean ====
section
/-! SUPPORT. Which accesses the block accepts, and what one event can do (spec 20_memory.md R41 to R45). -/

namespace Sys2Proof.Machine

/-- The access to slot `k` is accepted and names that slot (R41). -/
theorem acceptedSlot_at (c : Config) {k : Nat} (h : k < 8) : acceptedSlot c (c.base + 4 * k) 4 = .ok (slotAt k) := by
  have h1 : ¬ (c.base + 4 * k < c.base ∨ c.base + 32 ≤ c.base + 4 * k) := by omega
  have h2 : c.base + 4 * k - c.base = 4 * k := by omega
  have h3 : 4 * k / 4 = k := by omega
  rw [acceptedSlot, if_neg (by decide), if_neg h1, h2, if_neg (by omega), h3]

/-- The first slot is CMD. -/
theorem acceptedSlot_base (c : Config) : acceptedSlot c c.base 4 = .ok .cmd := by
  simpa [slotAt] using acceptedSlot_at c (k := 0) (by decide)

/-- What is accepted is a slot's 4-byte access, and nothing else (R41, R45). -/
theorem acceptedSlot_ok {c : Config} {addr width : Nat} {sl : Slot} (h : acceptedSlot c addr width = .ok sl) :
    width = 4 ∧ ∃ k, k < 8 ∧ addr = c.base + 4 * k ∧ sl = slotAt k := by
  unfold acceptedSlot at h
  split at h
  · cases h
  · split at h
    · cases h
    · split at h
      · cases h
      · cases h
        exact ⟨by omega, (addr - c.base) / 4, by omega, by omega, rfl⟩

theorem acceptedSlot_ok_iff {c : Config} {addr width : Nat} :
    (∃ sl, acceptedSlot c addr width = .ok sl) ↔ Accepted c addr width := by
  constructor
  · rintro ⟨sl, h⟩
    obtain ⟨hw, k, hk, ha, -⟩ := acceptedSlot_ok h
    exact ⟨hw, k, hk, ha⟩
  · rintro ⟨rfl, k, hk, rfl⟩
    exact ⟨_, acceptedSlot_at c hk⟩

/-- A write of a command word at CMD runs that command (R44). -/
theorem hostWrite_base (s : State) (w : Word) : hostWrite s.cfg.base 4 w s = exec (decodeWord w) s := by
  simp [hostWrite, acceptedSlot_base, writeSlot]

/-- Outside CMD, an accepted write changes no state (R44). -/
theorem writeSlot_of_ne_cmd (v : Word) (s : State) {sl : Slot} (h : sl ≠ .cmd) : writeSlot v s sl = .next s := by
  cases sl <;> first | rfl | exact absurd rfl h

/-- What one event can do if it is not refused: it runs a command, writes a slot that ignores writes, reads a slot, or
resets. -/
theorem perform_next {e : HostEvent} {s t : State} (h : perform e s = .next t) :
    (∃ w, e = .write s.cfg.base 4 w ∧ exec (decodeWord w) s = .next t) ∨
    (∃ k w, 0 < k ∧ k < 8 ∧ e = .write (s.cfg.base + 4 * k) 4 w ∧ t = s) ∨
    (∃ k, k < 8 ∧ e = .read (s.cfg.base + 4 * k) 4 ∧ t = s.setReadout (readSlot s (slotAt k))) ∨
    (e = .reset ∧ t = s.afterReset) := by
  cases e with
  | read addr width =>
    simp only [perform, hostRead] at h
    split at h
    · cases h
    · next sl hs =>
      cases h
      obtain ⟨rfl, k, hk, rfl, rfl⟩ := acceptedSlot_ok hs
      exact .inr (.inr (.inl ⟨k, hk, rfl, rfl⟩))
  | write addr width w =>
    simp only [perform, hostWrite] at h
    split at h
    · cases h
    · next sl hs =>
      obtain ⟨rfl, k, hk, rfl, rfl⟩ := acceptedSlot_ok hs
      by_cases hk0 : k = 0
      · subst hk0
        exact .inl ⟨w, by simp, by simpa [writeSlot, slotAt] using h⟩
      · refine .inr (.inl ⟨k, w, by omega, hk, rfl, ?_⟩)
        have hne : slotAt k ≠ .cmd := by
          unfold slotAt; split <;> simp_all
        rw [writeSlot_of_ne_cmd w s hne] at h
        cases h; rfl
  | reset => cases h; exact .inr (.inr (.inr ⟨rfl, rfl⟩))

/-- A step performs the oldest pending event (R51). -/
theorem step_of_pending {s : State} {e : HostEvent} {rest : List HostEvent} (h : s.pending = e :: rest) :
    step s = perform e (s.setPending rest) := by
  simp [step, performNext, h]

/-- With nothing pending, nothing happens (10_state.md R21). -/
theorem step_idle {s : State} (h : s.pending = []) : step s = .next s := by
  simp [step, performNext, h]

end Sys2Proof.Machine
end

