-- ==== Sys2Proof/Tests/Slice0.lean ====
section
/-! SUPPORT. Tests of the model: well-formedness, decoding, the register window and the assembler (Tests/Commands.lean holds
those of the commands, Tests/Witnesses.lean the witnesses of the statements). Expected values are those of
spec/95_test_vectors.md (its section in each comment) or of the worked examples in the rules named, never the model's own
answers. -/

namespace Sys2Proof.Tests

open Sys2Proof.Machine

/-! ### Helpers -/

/-- A block with the default tables, given its CRC, STATUS as the word the host reads, QUOT, REM and DIVR. -/
def block (crc : Byte) (status quot rem : Word) (divr : Half) : State :=
  { State.reset with
    crc := crc
    status :=
      { matched := status.getLsbD 0, err := status.getLsbD 1, valid := status.getLsbD 2, ill := status.getLsbD 3,
        lastf := status.extractLsb' 4 4 }
    quot := quot
    rem := rem
    divr := divr }

/-- The registers as the host reads them. -/
structure View where
  crc    : Byte
  status : Word
  quot   : Word
  rem    : Word
  divr   : Half
deriving DecidableEq, Repr

/-- The registers after an outcome, if it is a next state. -/
def view : Host.Outcome State Fault Refusal → Option View
  | .next t => some ⟨t.crc, statusWord t.status, t.quot, t.rem, t.divr⟩
  | .fault _ => none
  | .refused _ => none

/-- The next state of an outcome, if there is one. -/
def nextOf : Host.Outcome State Fault Refusal → Option State
  | .next t => some t
  | .fault _ => none
  | .refused _ => none

/-- Why an outcome is no step, if it is none. -/
def refusalOf : Host.Outcome State Fault Refusal → Option Refusal
  | .next _ => none
  | .fault _ => none
  | .refused r => some r

/-- One step that writes a command word to CMD. -/
def command (w : Nat) (s : State) : Option View := view (step (s.withFetchWord 32 w))

/-! ### Well-formedness: the one check of an instruction, and the checks of the assembler and of a configuration -/

theorem test_reserved_below_8_is_ill_formed : Instr.wf (.reserved 7#4) = false := by decide

theorem test_reserved_from_8_is_well_formed : Instr.wf (.reserved 8#4) = true ∧ Instr.wf (.reserved 15#4) = true := by
  decide

theorem test_assembler_refuses_out_of_range :
    assemble (.crcByte 256) = .error .operandOutOfRange ∧ assemble (.crcWord 65536) = .error .operandOutOfRange ∧
    assemble (.scale (.number 9) 1) = .error .fieldIndexAbove8 ∧ assemble (.chkFrame [(0, 0)]) = .error .operandCount := by
  decide

theorem test_configuration_is_refused :
    Config.ofParameters 33 #v[10, 10, 10, 10, 100, 200, 10, 10, 1] (Vector.replicate 9 false)
      = .error .baseNotMultipleOf32 ∧
    Config.ofParameters 32 #v[10, 10, 20, 10, 100, 200, 10, 10, 1] (Vector.replicate 9 false) = .error .divisorNotInSet ∧
    Config.ofParameters 32 #v[10, 10, 10, 10, 100, 200, 10, 10, 10] (Vector.replicate 9 false)
      = .error .co2DivisorNotOne := by
  decide

/-! ### Decoding: words written out bit by bit from R56 (OP, F, C, H, L) -/

theorem test_decode_nop : decodeWord 0b0000_0000_00000000_00000000_00000000#32 = .nop := by decide

theorem test_decode_crcInit : decodeWord 0b0001_0000_00000000_00000000_00000000#32 = .crcInit := by decide

theorem test_decode_crcByte : decodeWord 0b0010_1111_11001100_10101011_00000001#32 = .crcByte 0x01#8 := by decide

theorem test_decode_crcWord : decodeWord 0b0011_0000_00000000_10111110_11101111#32 = .crcWord 0xBEEF#16 := by decide

theorem test_decode_crcCheck : decodeWord 0b0100_1001_10110000_11111111_11111111#32 = .crcCheck 0xB0#8 := by decide

theorem test_decode_scale : decodeWord 0b0101_0101_11111111_00010000_01101000#32 = .scale 5#4 0x1068#16 := by decide

theorem test_decode_field : decodeWord 0b0110_0001_11011000_00000000_11111010#32 = .field 1#4 0xD8#8 0x00FA#16 := by
  decide

theorem test_decode_clear : decodeWord 0b0111_1111_11111111_11111111_11111111#32 = .clear := by decide

theorem test_decode_reserved :
    decodeWord 0b1000_0101_11101101_00010000_01101000#32 = .reserved 8#4 ∧
    decodeWord 0b1111_0101_11101101_00010000_01101000#32 = .reserved 15#4 := by decide

theorem test_decode_table_word :
    decodeTableWord 32 0x61D800FA = some (.field 1#4 0xD8#8 0x00FA#16) ∧ decodeTableWord 33 0 = none ∧
    decodeTableWord 8 0xBE = some .nop := by decide

/-! ### The register window (95_test_vectors.md §7) -/

/-- What one read at an address returns. -/
def readAt (addr : Nat) (s : State) : Option Word := (nextOf (perform (.read addr 4) s)).bind State.readout

theorem test_reads :
    [0x00, 0x04, 0x08, 0x0C, 0x10, 0x14, 0x18, 0x1C].map (fun a => readAt a (block 0xFF 0x54 0xFFFFFFFB 0xFFFFFFFF 200)) =
      [some 0, some 0x54, some 0xFF, some 0xFFFFFFFB, some 0xFFFFFFFF, some 0xC8, some 0, some 0] := by decide +kernel

theorem test_write_to_status_is_ignored :
    view (perform (.write 0x04 4 0xFFFFFFFF) (block 0xFF 0x54 0xFFFFFFFB 0xFFFFFFFF 200))
      = some ⟨0xFF, 0x54, 0xFFFFFFFB, 0xFFFFFFFF, 200⟩ := by decide +kernel

theorem test_refused_accesses :
    refusalOf (perform (.read 0x08 1) State.reset) = some .accessWidth ∧
    refusalOf (perform (.write 0x02 4 0) State.reset) = some .misaligned ∧
    refusalOf (perform (.write 0x1E 4 0) State.reset) = some .misaligned ∧
    refusalOf (perform (.read 0x20 4) State.reset) = some .outsideWindow := by decide

theorem test_window_moves_with_base :
    refusalOf (perform (.read 0x00 4) (State.resetWith { Config.default with window := 2 })) = some .outsideWindow ∧
    readAt 0x48 (State.resetWith { Config.default with window := 2 }) = some 0xFF := by decide +kernel

theorem test_reset_event :
    view (perform .reset (block 0x33 0x5C 0xFFFFFFFB 0xFFFFFFFF 200)) = some ⟨0xFF, 0, 0, 0, 0⟩ := by decide

/-! ### The assembler (30_encoding.md R64, R65; 95_test_vectors.md §5, §8) -/

theorem test_assemble_field_by_name : assembleText "field pm2_5, 0x00FA, 0xD8".toList = .ok [0x61D800FA#32] := by decide

theorem test_assemble_chk_pair :
    assembleText "chk.pair 0x00, 0x01, 0xB0".toList = .ok [0x10000000#32, 0x30000001#32, 0x40B00000#32] := by decide

theorem test_assemble_raw_word_and_errors :
    assembleText ".word 0x59000001".toList = .ok [0x59000001#32] ∧
    assembleText "crc.bytes".toList = .ok [] ∧ assembleText "scale 9, 1".toList = .error .fieldIndexAbove8 ∧
    assembleText "jump 1".toList = .error .unknownMnemonic := by decide

/-- The frame of program P3 (27 bytes in wire order) as `chk.frame`'s commands. -/
theorem test_assemble_frame_of_P3 :
    assemble (.chkFrame (frameOperands #v[0x00#8, 0x78#8, 0xC0#8, 0x00#8, 0xFA#8, 0xD8#8, 0x01#8, 0x2C#8, 0x8E#8, 0x01#8,
      0x5E#8, 0x14#8, 0x11#8, 0xC6#8, 0xFA#8, 0x10#8, 0x68#8, 0xED#8, 0x03#8, 0xE8#8, 0xD4#8, 0x00#8, 0x0A#8, 0x5A#8,
      0x02#8, 0x00#8, 0x58#8])) =
    .ok [0x70000000#32, 0x60C00078#32, 0x61D800FA#32, 0x628E012C#32, 0x6314015E#32, 0x64FA11C6#32, 0x65ED1068#32,
      0x66D403E8#32, 0x675A000A#32, 0x68580200#32] := by decide +kernel

end Sys2Proof.Tests
end

