-- ==== Sys2Proof/Tests/Witnesses.lean ====
section
/-! SUPPORT. For every statement that has hypotheses, concrete states and operands that meet them, at the boundary values
of its clauses. -/

namespace Sys2Proof.Tests

open Sys2Proof.Machine

/-! ### Witnesses: the hypotheses of every statement that has some can be met -/

/-- A reset block whose next access is this one. -/
def withEvent (e : HostEvent) : State := State.reset.setPending [e]

theorem witness_StepRunsTheDecodedCommand :
    (withEvent (.write Config.default.base 4 0x10000000)).pending = [.write State.reset.cfg.base 4 0x10000000] ∧
    State.reset.pending = [] ∧ decodeTableWord 32 0x200000BE = some (.crcByte 0xBE#8) := by decide

theorem witness_RegisterMapReadsAndWrites :
    (∃ k v, k = 0x00 ∧ v = 0#32) ∧ (∃ k, k = 0x04 ∧ (0x54#32) = 0#24 ++ (block 0 0x54 0 0 0).status.lastf ++
      BitVec.ofBool (block 0 0x54 0 0 0).status.ill ++ BitVec.ofBool (block 0 0x54 0 0 0).status.valid ++
      BitVec.ofBool (block 0 0x54 0 0 0).status.err ++ BitVec.ofBool (block 0 0x54 0 0 0).status.matched) ∧
    (0xFF#32 : Word) = 0#24 ++ State.reset.crc ∧ (0xC8#32 : Word) = 0#16 ++ (block 0 0 0 0 0xC8).divr ∧
    (0 < 1 ∧ 1 < 8) ∧ (0 < 7 ∧ 7 < 8) := by
  refine ⟨⟨_, _, rfl, rfl⟩, ⟨_, rfl, ?_⟩, ?_, ?_, ?_, ?_⟩ <;> decide

/-- Accepted at both ends of the window; refused for its width, its alignment, and just past either end. -/
theorem witness_ExactlyTheAlignedWordAccessesInTheWindowAreAccepted :
    (∀ c : Config, Accepted c c.base 4 ∧ Accepted c (c.base + 28) 4 ∧ ¬ Accepted c c.base 2 ∧
      ¬ Accepted c (c.base + 2) 4 ∧ ¬ Accepted c (c.base + 32) 4) ∧
    ¬ Accepted { Config.default with window := 1 } 28 4 := by
  refine ⟨fun c => ⟨⟨rfl, 0, by decide, rfl⟩, ⟨rfl, 7, by decide, rfl⟩, ?_, ?_, ?_⟩, ?_⟩
  · rintro ⟨h, -⟩; omega
  · rintro ⟨-, k, h, h'⟩; omega
  · rintro ⟨-, k, h, h'⟩; omega
  · rintro ⟨-, k, h, h'⟩
    have hb : ({ Config.default with window := 1 } : Config).base = 32 := rfl
    omega

theorem witness_ReadsAreIdempotentAndCommandsAreNot :
    ∃ t u v, perform (.read 0x08 4) State.reset = .next t ∧ performAll [.read 0x04 4] t = .next u ∧
      perform (.read 0x08 4) u = .next v ∧ ∀ e ∈ ([.read 0x04 4] : List HostEvent), ∃ b, e = .read b 4 :=
  ⟨_, _, _, rfl, rfl, rfl, by simp⟩

theorem witness_SafeRunsNeverStop :
    SafeRun (State.reset.setPending [.write 0 4 0x10000000, .read 28 4, .reset]) := by
  intro e he
  have hb : (State.reset.setPending [.write 0 4 0x10000000, .read 28 4, .reset]).cfg.base = 0 := rfl
  rcases List.mem_cons.mp he with rfl | he
  · exact ⟨rfl, 0, by decide, by rw [hb]⟩
  rcases List.mem_cons.mp he with rfl | he
  · exact ⟨rfl, 7, by decide, by rw [hb]⟩
  rcases List.mem_cons.mp he with rfl | he
  · trivial
  · cases he

theorem witness_ConfigurationIsConstant :
    (∃ t, step (withEvent (.write 0 4 0x50000001)) = .next t) ∧
    (∃ t, exec (.crcByte 1#8) State.reset = .next t ∧ (∀ f d, Instr.crcByte 1#8 ≠ .scale f d) ∧
      ∀ f k d, Instr.crcByte 1#8 ≠ .field f k d) :=
  ⟨⟨_, rfl⟩, ⟨_, rfl, by simp, by simp⟩⟩

theorem witness_ParametersOutsideTheDivisorSetAreRefused :
    ∃ c, Config.ofParameters 64 #v[1, 10, 100, 200, 100, 200, 10, 10, 1] (Vector.replicate 9 true) = .ok c :=
  ⟨_, rfl⟩

theorem witness_DecodingAnEncodedInstructionGivesItBack :
    (Instr.reserved 8#4).WellFormed ∧ (Instr.reserved 15#4).WellFormed ∧ (Instr.field 15#4 0xFF#8 0xFFFF#16).WellFormed := by
  decide

/-- A word for every clause of the opcode map, SCALE and FIELD at both ends of the legal and the reserved indices. -/
theorem witness_TheOpcodeAndFieldsOfAWordPickItsEffect :
    (0x00000000#32).extractLsb' 28 4 = 0#4 ∧ (0x10000000#32).extractLsb' 28 4 = 1#4 ∧
    (0x20000000#32).extractLsb' 28 4 = 2#4 ∧ (0x30000000#32).extractLsb' 28 4 = 3#4 ∧
    (0x40000000#32).extractLsb' 28 4 = 4#4 ∧ (0x58000000#32).extractLsb' 28 4 = 5#4 ∧
    (8 : FieldIndex).val = ((0x58000000#32).extractLsb' 24 4).toNat ∧ 9 ≤ ((0x59000000#32).extractLsb' 24 4).toNat ∧
    (0x6F000000#32).extractLsb' 28 4 = 6#4 ∧ 9 ≤ ((0x6F000000#32).extractLsb' 24 4).toNat ∧
    (0 : FieldIndex).val = ((0x60000000#32).extractLsb' 24 4).toNat ∧ (0x70000000#32).extractLsb' 28 4 = 7#4 ∧
    8 ≤ ((0x80000000#32).extractLsb' 28 4).toNat ∧ 8 ≤ ((0xF0000000#32).extractLsb' 28 4).toNat := by decide

theorem witness_UnusedFieldsAreIgnored :
    ∃ t, exec (decodeWord 0x49FFFFFF#32) (block 0xFF 8 0 0 0) = .next t ∧ t.status.ill = true ∧
      (0x49FFFFFF#32).extractLsb' 28 4 ≠ 5#4 ∧ (0x49FFFFFF#32).extractLsb' 28 4 ≠ 6#4 ∧
      ((0x49FFFFFF#32).extractLsb' 28 4).toNat < 8 :=
  ⟨_, rfl, rfl, by decide, by decide, by decide⟩

theorem witness_AssemblerEmitsTheWordsOfTheSyntaxTable :
    assemble (.crcByte 255) = .ok [0x200000FF#32] ∧ assemble (.crcByte 256) = .error .operandOutOfRange ∧
    assemble (.crcWord 65535) = .ok [0x3000FFFF#32] ∧ assemble (.crcWord 65536) = .error .operandOutOfRange ∧
    assemble (.crcCheck 255) = .ok [0x40FF0000#32] ∧ assemble (.crcCheck 256) = .error .operandOutOfRange ∧
    assemble (.scale (.number 8) 65535) = .ok [0x5800FFFF#32] ∧ assemble (.scale (.number 9) 0) = .error .fieldIndexAbove8 ∧
    assemble (.scale (.number 8) 65536) = .error .operandOutOfRange ∧
    assemble (.scale (.number 9) 65536) = .error .fieldIndexAbove8 ∧
    assemble (.field (.number 9) 65536 256) = .error .fieldIndexAbove8 ∧
    assemble (.field (.number 0) 65536 0) = .error .operandOutOfRange ∧
    assemble (.field (.number 8) 65535 255) = .ok [0x68FFFFFF#32] ∧
    assemble (.field (.number 0) 0 256) = .error .operandOutOfRange ∧
    assemble (.rawWord (2 ^ 32 - 1)) = .ok [0xFFFFFFFF#32] ∧
    assemble (.rawWord (2 ^ 32)) = .error .operandOutOfRange := by decide

theorem witness_frames_of_nine : (List.replicate 9 (0x0000#16, 0x81#8)).length = 9 ∧
    ∀ p ∈ List.replicate 9 (0x0000#16, 0x81#8), crcWord 0xFF#8 p.1 = p.2 := by
  refine ⟨rfl, fun p hp => ?_⟩
  rw [List.eq_of_mem_replicate hp]
  decide +kernel

/-- A frame whose last triple alone has a wrong checksum byte. -/
theorem witness_frame_with_a_mismatch :
    (List.replicate 8 (0x0000#16, 0x81#8) ++ [(0x0000#16, 0x82#8)]).length = 9 ∧
    ¬ ∀ p ∈ List.replicate 8 (0x0000#16, 0x81#8) ++ [(0x0000#16, 0x82#8)], crcWord 0xFF#8 p.1 = p.2 := by
  refine ⟨rfl, fun h => absurd (h (0x0000#16, 0x82#8) (by simp)) ?_⟩
  decide +kernel

theorem witness_CrcInit_and_CrcByte : (0x1FFFFFFF#32).extractLsb' 28 4 = 1#4 ∧ State.reset.crc = 0xFF#8 ∧
    (0x2000AB01#32).extractLsb' 28 4 = 2#4 ∧ (0x3000BEEF#32).extractLsb' 28 4 = 3#4 := by decide

theorem witness_CrcCheckComparesTheAccumulator : (0x40FF0000#32).extractLsb' 28 4 = 4#4 ∧ State.reset.crc = 0xFF#8 ∧
    State.reset.crc ≠ 0xFE#8 := by decide

/-- A right triple and one change of each of its bytes. -/
theorem witness_EverySingleByteChangeOfATripleIsDetected :
    0x92#8 = crcWord 0xFF#8 (0xBE#8 ++ 0xEF#8) ∧ 0xBF#8 ≠ 0xBE#8 ∧ 0x00#8 ≠ 0xEF#8 ∧ 0x93#8 ≠ 0x92#8 := by
  decide +kernel

theorem witness_TruncatingDivisionLaws : (1 : Int) ≤ 1 ∧ (0 : Int) ≤ 0 ∧ (-1 : Int) < 0 ∧ tdiv (-1001) 200 = -5 ∧
    trem (-1001) 200 = -1 := by decide

/-- Signed and unsigned fields, the four divisors, and raw values on both sides of 0, in the default tables. -/
theorem witness_scaler_hypotheses :
    Config.default.isSigned 5 = true ∧ Config.default.isSigned 4 = true ∧ Config.default.isSigned 0 = false ∧
    Config.default.divisor 5 = 200 ∧ Config.default.divisor 4 = 100 ∧ Config.default.divisor 0 = 10 ∧
    Config.default.divisor 8 = 1 ∧ raw Config.default 5 0x8000#16 = -32768 ∧ raw Config.default 0 0x8000#16 = 32768 ∧
    raw Config.default 5 0#16 = 0 := by decide

theorem witness_ScaleDividesTheRawValue : (0x58000000#32).extractLsb' 28 4 = 5#4 ∧ 9 ≤ (9#4).toNat ∧ 9 ≤ (15#4).toNat := by
  decide

theorem witness_FieldChecksThenScales : (0x68000000#32).extractLsb' 28 4 = 6#4 ∧ 9 ≤ (9#4).toNat ∧
    crcWord 0xFF#8 0x00FA#16 = 0xD8#8 ∧ crcWord 0xFF#8 0x00FA#16 ≠ 0xD9#8 := by decide +kernel

theorem witness_NopChangesNothing : (0x0FFFFFFF#32).extractLsb' 28 4 = 0#4 ∧ (0x0FFFFFFF#32).toNat ≤ 0x0FFFFFFF := by
  decide

theorem witness_ClearReturnsEveryRegisterToReset :
    (0x70000000#32).extractLsb' 28 4 = 7#4 ∧ AtResetValues State.reset ∧
    ∃ t, exec .clear (block 0 0x0A 0 0 0) = .next t ∧ (block 0 0x0A 0 0 0).status.err = true ∧ t.status.err = false ∧
      (block 0 0x0A 0 0 0).status.ill = true ∧ t.status.ill = false :=
  ⟨by decide, ⟨rfl, rfl, rfl, rfl, rfl, rfl, rfl, rfl, rfl⟩, _, rfl, rfl, rfl, rfl, rfl⟩

theorem witness_ReservedWord : ReservedWord 0x80000000#32 ∧ ReservedWord 0xFFFFFFFF#32 ∧ ReservedWord 0x59000001#32 ∧
    ReservedWord 0x6F000000#32 ∧ ¬ ReservedWord 0x58000000#32 ∧ ¬ ReservedWord 0x49FFFFFF#32 := by
  unfold ReservedWord; decide

theorem witness_RaisedIllDoesNotDisturbLaterCommands :
    ∃ t, Instr.scale 5#4 0xFC17#16 ≠ .clear ∧ exec (.scale 5#4 0xFC17#16) State.reset = .next t :=
  ⟨_, by decide, rfl⟩

/-- Every flag of STATUS does change by some command. -/
theorem witness_FlagsChangeOnlyByTheirCommands :
    (∃ t, exec (.crcCheck 0xFF#8) State.reset = .next t ∧ t.status.matched ≠ State.reset.status.matched) ∧
    (∃ t, exec (.crcCheck 0xFE#8) State.reset = .next t ∧ t.status.err = true) ∧
    (∃ t, exec (.scale 8#4 1#16) State.reset = .next t ∧ t.status.valid = true ∧
      t.status.lastf ≠ State.reset.status.lastf) ∧
    (∃ t, exec (.scale 9#4 1#16) State.reset = .next t ∧ t.status.ill = true) ∧
    (∃ t, exec .clear (block 0 0xFF 0 0 0) = .next t ∧ t.status.err = false ∧ t.status.valid = false ∧
      t.status.ill = false) :=
  ⟨⟨_, rfl, by decide⟩, ⟨_, rfl, by decide⟩, ⟨_, rfl, by decide, by decide⟩, ⟨_, rfl, by decide⟩,
    ⟨_, rfl, by decide, by decide, by decide⟩⟩

theorem witness_RegistersChangeOnlyByTheirCommands :
    (∃ t, exec (.crcByte 0xFF#8) State.reset = .next t ∧ t.crc ≠ State.reset.crc) ∧
    (∃ t, exec (.scale 5#4 0x1068#16) State.reset = .next t ∧ t.quot ≠ State.reset.quot) :=
  ⟨⟨_, rfl, by decide⟩, ⟨_, rfl, by decide⟩⟩

/-- Compares that succeed and that fail, by CRC_CHECK and by FIELD, and a command that makes none. -/
theorem witness_MatchIsTheResultOfTheLatestCompare :
    CompareSucceeds 0x40FF0000#32 State.reset ∧ CompareFails 0x40FE0000#32 State.reset ∧
    CompareSucceeds 0x68D800FA#32 State.reset ∧ CompareFails 0x68D900FA#32 State.reset ∧
    ¬ CompareSucceeds 0x10000000#32 State.reset ∧ ¬ CompareFails 0x10000000#32 State.reset ∧
    (0x70000000#32).extractLsb' 28 4 = 7#4 := by
  unfold CompareSucceeds CompareFails; decide +kernel

/-- A CLEAR, then a failing compare and no CLEAR or reset. -/
theorem witness_ErrIsOneExactlyWhenSomeCompareFailed :
    (∀ s : State, (cmdWrite s.cfg 0x70000000#32).Clears s.cfg) ∧ (∀ s : State, HostEvent.reset.Clears s.cfg) ∧
    (∃ s0 t, perform (cmdWrite State.reset.cfg 0x70000000#32) State.reset = .next s0 ∧
      performAll [cmdWrite State.reset.cfg 0x40FE0000#32] s0 = .next t ∧ t.status.err = true ∧
      (∀ x ∈ [cmdWrite State.reset.cfg 0x40FE0000#32], ¬ x.Clears State.reset.cfg)) ∧
    (∃ t, perform .reset (block 0 2 0 0 0) = .next t ∧ (block 0 2 0 0 0).status.err = true ∧ t.status.err = false) := by
  refine ⟨fun s => .inr ⟨_, rfl, by decide⟩, fun s => .inl rfl, ⟨_, _, rfl, rfl, by decide, ?_⟩, ⟨_, rfl, by decide, by decide⟩⟩
  intro x hx
  rw [List.mem_singleton] at hx
  subst hx
  rintro (h | ⟨w, h, h7⟩)
  · cases h
  · cases h; revert h7; decide

/-- A history that leaves a scaling, and one whose later mismatch drops it. -/
theorem witness_ResultRegistersHoldTheLatestUnclearedScaling :
    (∃ t, performAll [.write 0 4 0x55001068#32] (State.resetWith Config.default) = .next t) ∧
    [HostEvent.write 0 4 0x55001068#32].foldl (scalingAfter Config.default) none = some (5, 0x1068#16) ∧
    [HostEvent.write 0 4 0x55001068#32, .write 0 4 0x600000FA#32].foldl (scalingAfter Config.default) none = none :=
  ⟨⟨_, rfl⟩, by decide +kernel, by decide +kernel⟩

theorem witness_IllIsSetByReservedWordsAndClearedByClearOrReset :
    (∃ t, perform (.write 0 4 0x80000000#32) State.reset = .next t ∧ State.reset.status.ill = false ∧
      t.status.ill = true) ∧
    (∃ t, perform .reset (block 0 8 0 0 0) = .next t ∧ (block 0 8 0 0 0).status.ill = true ∧ t.status.ill = false) :=
  ⟨⟨_, rfl, rfl, rfl⟩, ⟨_, rfl, rfl, rfl⟩⟩

theorem witness_reachable_state :
    Reachable Config.default State.reset ∧
    ∃ t, Reachable Config.default t ∧ t.status.valid = true ∧ t.status.lastf = 8#4 :=
  ⟨.reset [] none, _, .step (.reset [.write 0 4 0x58000200#32] none) rfl, by decide, by decide⟩

/-- A signed field with QUOT 0 and a negative remainder: the raw value is -1, and REM is -1. -/
theorem witness_reachable_state_with_negative_remainder :
    ∃ t, Reachable Config.default t ∧ t.status.valid = true ∧ t.quot = 0#32 ∧ t.rem.toInt = -1 ∧
      HoldsScaling t 5 0xFFFF#16 :=
  ⟨_, .step (.reset [.write 0 4 0x5500FFFF#32] none) rfl, by decide, by decide, by decide, by
    unfold HoldsScaling; decide⟩

/-- A step that leaves a scaling where there was none, a CLEAR that drops it, and an idle one. -/
theorem witness_EveryStepKeepsTheResultRegistersTrueToTheHistory :
    HoldsResult State.reset none ∧
    (∃ t, step (withEvent (.write 0 4 0x55001068#32)) = .next t ∧ HoldsResult t (some (5, 0x1068#16)) ∧
      ∃ u, step (t.setPending [.write 0 4 0x70000000#32]) = .next u ∧ HoldsResult u none) ∧
    State.reset.pending = [] ∧ ∃ t, step State.reset = .next t :=
  ⟨⟨rfl, rfl, rfl, rfl⟩,
    ⟨_, rfl, ⟨rfl, by unfold HoldsScaling; decide⟩, _, rfl, rfl, rfl, rfl, rfl⟩, rfl, _, rfl⟩

theorem witness_EveryStepKeepsTheInvariant :
    State.reset.Inv ∧ ∃ t, step State.reset = .next t := by
  refine ⟨⟨by decide, fun _ => ⟨rfl, rfl, rfl⟩, fun h => absurd h (by decide)⟩, _, rfl⟩

end Sys2Proof.Tests
end

/-! PROOFS, family 00_scope: which parameter sets are configurations (spec 00_scope.md R6, R7, R8). The key fact is that
`Config.ofParameters` accepts a set into `c` exactly if the set is the one `c` carries. -/

namespace Sys2Proof

theorem Divisor.exists_value_eq_iff (n : Nat) :
    (∃ d : Divisor, d.value = n) ↔ n = 1 ∨ n = 10 ∨ n = 100 ∨ n = 200 := by
  constructor
  · rintro ⟨d, rfl⟩
    cases d <;> simp [Divisor.value]
  · rintro (rfl | rfl | rfl | rfl)
    exacts [⟨.one, rfl⟩, ⟨.ten, rfl⟩, ⟨.hundred, rfl⟩, ⟨.twoHundred, rfl⟩]

@[simp] theorem Divisor.ofNat?_value (d : Divisor) : Divisor.ofNat? d.value = some d := by
  cases d <;> rfl

theorem Divisor.value_of_ofNat?_eq_some {n : Nat} {d : Divisor} (h : Divisor.ofNat? n = some d) : d.value = n := by
  unfold Divisor.ofNat? at h
  split_ifs at h with h1 h10 h100 h200 <;> cases h
  exacts [h1.symm, h10.symm, h100.symm, h200.symm]

theorem Config.divisor_of_lt (c : Config) {k : Nat} (h : k < 8) : c.divisor ⟨k, by omega⟩ = c.divTable[k].value := by
  simp [Config.divisor, Config.divEntry, h]

/-- R8: the base addresses are the multiples of 32. -/
theorem Config.base_eq_iff {c : Config} {base : Nat} : c.base = base ↔ base % 32 = 0 ∧ c.window = base / 32 := by
  unfold Config.base
  omega

/-- R6: the CO2 divisor is fixed. -/
@[simp] theorem Config.divisor_co2 (c : Config) : c.divisor 8 = 1 := rfl

/-- `c` is the configuration of the parameters `BASE`, `DIV` and `SGN`: what it reads as is what was given. -/
def Config.Carries (c : Config) (base : Nat) (div : Vector Nat 9) (sgn : Vector Bool 9) : Prop :=
  c.base = base ∧ ∀ f : FieldIndex, c.divisor f = div[f] ∧ c.isSigned f = sgn[f]

theorem Config.carries_of_ofParameters {base : Nat} {div : Vector Nat 9} {sgn : Vector Bool 9} {c : Config}
    (h : Config.ofParameters base div sgn = .ok c) : c.Carries base div sgn := by
  unfold Config.ofParameters at h
  split_ifs at h with hbase hco2
  split at h
  case h_2 => cases h
  case h_1 d0 d1 d2 d3 d4 d5 d6 d7 h0 h1 h2 h3 h4 h5 h6 h7 =>
    cases h
    refine ⟨Config.base_eq_iff.mpr ⟨not_not.mp hbase, rfl⟩, fun f => ⟨?_, rfl⟩⟩
    fin_cases f
    exacts [Divisor.value_of_ofNat?_eq_some h0, Divisor.value_of_ofNat?_eq_some h1,
      Divisor.value_of_ofNat?_eq_some h2, Divisor.value_of_ofNat?_eq_some h3, Divisor.value_of_ofNat?_eq_some h4,
      Divisor.value_of_ofNat?_eq_some h5, Divisor.value_of_ofNat?_eq_some h6, Divisor.value_of_ofNat?_eq_some h7,
      (not_not.mp hco2).symm]

/-- The parameters a configuration carries are accepted and give that configuration back. -/
theorem Config.ofParameters_of_carries {base : Nat} {div : Vector Nat 9} {sgn : Vector Bool 9} {c : Config}
    (h : c.Carries base div sgn) : Config.ofParameters base div sgn = .ok c := by
  obtain ⟨hbase, hfield⟩ := h
  obtain ⟨hmod, hwindow⟩ := Config.base_eq_iff.mp hbase
  have hco2 : div[8] = 1 := (hfield 8).1.symm
  have hdiv (k : Nat) (hk : k < 8) : Divisor.ofNat? div[k] = some c.divTable[k] := by
    have hval : div[k] = c.divTable[k].value := (hfield ⟨k, by omega⟩).1.symm.trans (c.divisor_of_lt hk)
    rw [hval, Divisor.ofNat?_value]
  have hsgn : c.sgnTable = sgn := Vector.ext fun k hk => (hfield ⟨k, hk⟩).2
  have htable : #v[c.divTable[0], c.divTable[1], c.divTable[2], c.divTable[3], c.divTable[4], c.divTable[5],
      c.divTable[6], c.divTable[7]] = c.divTable := by
    ext k hk
    interval_cases k <;> rfl
  simp [Config.ofParameters, hmod, hco2, hdiv, htable, ← hwindow, ← hsgn]

theorem Config.ofParameters_eq_ok_iff {base : Nat} {div : Vector Nat 9} {sgn : Vector Bool 9} {c : Config} :
    Config.ofParameters base div sgn = .ok c ↔ c.Carries base div sgn :=
  ⟨Config.carries_of_ofParameters, Config.ofParameters_of_carries⟩

theorem Config.exists_carries_iff (base : Nat) (div : Vector Nat 9) (sgn : Vector Bool 9) :
    (∃ c : Config, c.Carries base div sgn) ↔
      base % 32 = 0 ∧ div[8] = 1 ∧ ∀ f : FieldIndex, div[f] = 1 ∨ div[f] = 10 ∨ div[f] = 100 ∨ div[f] = 200 := by
  constructor
  · rintro ⟨c, hbase, hfield⟩
    refine ⟨(Config.base_eq_iff.mp hbase).1, (hfield 8).1.symm, fun f => ?_⟩
    rw [← (hfield f).1]
    exact Machine.divisor_cases c f
  · rintro ⟨hbase, hco2, hset⟩
    choose entry hentry using fun f => (Divisor.exists_value_eq_iff div[f]).mpr (hset f)
    refine ⟨⟨base / 32, Vector.ofFn fun k => entry k.castSucc, sgn⟩, Config.base_eq_iff.mpr ⟨hbase, rfl⟩,
      fun f => ⟨?_, rfl⟩⟩
    induction f using Fin.lastCases with
    | last => exact hco2.symm
    | cast k => simpa [Config.divisor, Config.divEntry] using hentry k.castSucc

end Sys2Proof

namespace Sys2Proof.Machine

/-- Settles O9: `ofParameters` accepts a set exactly if some configuration carries it, which R6 and R8 characterise. -/
theorem parametersOutsideTheDivisorSetAreRefused : Obligations.ParametersOutsideTheDivisorSetAreRefused := by
  refine ⟨fun base div sgn => ?_, fun _ _ _ _ h => Config.carries_of_ofParameters h,
    fun c f => ⟨divisor_cases c f, c.divisor_co2⟩, by decide, by decide⟩
  simp only [Config.ofParameters_eq_ok_iff]
  exact Config.exists_carries_iff base div sgn

end Sys2Proof.Machine

/-! PROOFS, family 10_state: the registers over steps and whole runs (spec 10_state.md R20 to R38). The effect of every
command and of every host event is said once, as the relations `CommandEffect` and `EventEffect`; what a word of the
obligations does is read off its decoded instruction; each statement is then a case analysis or an induction over a run. -/

namespace Sys2Proof.Machine

/-! ### The effect of a command -/

/-- `CommandEffect s i t`: in the state `s` the command `i` leaves the state `t`. It is `exec` as a relation
(`exec_eq_next_iff`), with one case per row of 30_encoding.md R66 and per outcome of FIELD's compare. -/
inductive CommandEffect (s : State) : Instr → State → Prop where
  | nop : CommandEffect s .nop s
  | crcInit : CommandEffect s .crcInit (s.setCrc crcSeed)
  | crcByte (l : Byte) : CommandEffect s (.crcByte l) (s.setCrc (crcStep s.crc l))
  | crcWord (d : Half) : CommandEffect s (.crcWord d) (s.setCrc (crcWord s.crc d))
  | crcCheck (c : Byte) : CommandEffect s (.crcCheck c) (s.compared (s.crc == c))
  | scale {f : BitVec 4} {k : FieldIndex} (d : Half) (hf : fieldIndex? f = some k) :
      CommandEffect s (.scale f d) (s.scale k d)
  | scaleReserved {f : BitVec 4} (d : Half) (hf : fieldIndex? f = none) : CommandEffect s (.scale f d) s.raiseIll
  | fieldMatch {f : BitVec 4} {k : FieldIndex} {c : Byte} {d : Half} (hf : fieldIndex? f = some k)
      (hc : Machine.crcWord crcSeed d = c) :
      CommandEffect s (.field f c d) (((s.setCrc c).compared true).scale k d)
  | fieldMismatch {f : BitVec 4} {k : FieldIndex} {c : Byte} {d : Half} (hf : fieldIndex? f = some k)
      (hc : Machine.crcWord crcSeed d ≠ c) :
      CommandEffect s (.field f c d)
        { s with
          crc := Machine.crcWord crcSeed d, quot := 0#32, rem := 0#32, divr := 0#16
          status :=
            { s.status with matched := false, err := true, valid := false, lastf := BitVec.ofNat 4 k.val } }
  | fieldReserved {f : BitVec 4} (c : Byte) (d : Half) (hf : fieldIndex? f = none) :
      CommandEffect s (.field f c d) s.raiseIll
  | clear : CommandEffect s .clear s.cleared
  | reserved (op : BitVec 4) : CommandEffect s (.reserved op) s.raiseIll

theorem CommandEffect.exec {s t : State} {i : Instr} (h : CommandEffect s i t) : Machine.exec i s = .next t := by
  cases h with
  | nop | crcInit | crcByte | crcWord | crcCheck | clear | reserved => rfl
  | scale d hf => exact execScale_legal hf d s
  | scaleReserved d hf => exact execScale_reserved hf d s
  | fieldMatch hf hc => rw [← checkField_of_match hc]; exact execField_legal hf _ _ s
  | fieldMismatch hf hc => rw [← checkField_of_mismatch hc]; exact execField_legal hf _ _ s
  | fieldReserved c d hf => exact execField_reserved hf c d s

/-- Every command has an effect, whatever the state (60_exceptions.md R87). -/
theorem exists_commandEffect (i : Instr) (s : State) : ∃ t, CommandEffect s i t := by
  cases i with
  | nop => exact ⟨_, .nop⟩
  | crcInit => exact ⟨_, .crcInit⟩
  | crcByte l => exact ⟨_, .crcByte l⟩
  | crcWord d => exact ⟨_, .crcWord d⟩
  | crcCheck c => exact ⟨_, .crcCheck c⟩
  | scale f d =>
    cases hf : fieldIndex? f with
    | none => exact ⟨_, .scaleReserved d hf⟩
    | some k => exact ⟨_, .scale d hf⟩
  | field f c d =>
    cases hf : fieldIndex? f with
    | none => exact ⟨_, .fieldReserved c d hf⟩
    | some k =>
      by_cases hc : Machine.crcWord crcSeed d = c
      · exact ⟨_, .fieldMatch hf hc⟩
      · exact ⟨_, .fieldMismatch hf hc⟩
  | clear => exact ⟨_, .clear⟩
  | reserved op => exact ⟨_, .reserved op⟩

theorem exec_eq_next_iff {i : Instr} {s t : State} : exec i s = .next t ↔ CommandEffect s i t := by
  refine ⟨fun h => ?_, CommandEffect.exec⟩
  obtain ⟨u, hu⟩ := exists_commandEffect i s
  cases hu.exec.symm.trans h
  exact hu

/-! ### What a command compares, raises and scales, and the flags after it -/

/-- The result of the compare the command makes in the state `s`, if it makes one (40_crc.md R73; 41_scale.md R79). -/
def compareOf (s : State) : Instr → Option Bool
  | .crcCheck c => some (s.crc == c)
  | .field f c d => (fieldIndex? f).map fun _ => crcWord crcSeed d == c
  | _ => none

/-- Whether the command raises ILL (60_exceptions.md R90). -/
def raisesIll : Instr → Bool
  | .scale f _ => (fieldIndex? f).isNone
  | .field f _ _ => (fieldIndex? f).isNone
  | .reserved _ => true
  | _ => false

/-- The scaling the command leaves in the result registers, given the one before it (10_state.md R27). -/
def scalingOf (before : Option (FieldIndex × Half)) : Instr → Option (FieldIndex × Half)
  | .scale f d => (fieldIndex? f).elim before fun k => some (k, d)
  | .field f c d => (fieldIndex? f).elim before fun k => if crcWord crcSeed d = c then some (k, d) else none
  | .clear => none
  | .nop | .crcInit | .crcByte _ | .crcWord _ | .crcCheck _ | .reserved _ => before

namespace CommandEffect
variable {s t : State} {i : Instr}

theorem eq_cleared (h : CommandEffect s .clear t) : t = s.cleared := by
  cases h; rfl

theorem cfg_eq (h : CommandEffect s i t) : t.cfg = s.cfg := by
  cases h <;> rfl

/-- A command other than CLEAR writes its compare, if it makes one, to MATCH, adds a failure of it to ERR, and adds what it
raises to ILL (10_state.md R25, R26, R28). -/
theorem flags_eq (h : CommandEffect s i t) (hi : i ≠ .clear) :
    t.status.matched = (compareOf s i).getD s.status.matched ∧
    t.status.err = (s.status.err || compareOf s i == some false) ∧
    t.status.ill = (s.status.ill || raisesIll i) := by
  cases h with
  | nop | crcInit | crcByte | crcWord => simp [compareOf, raisesIll]
  | crcCheck => simp [compareOf, raisesIll, compared_eq]
  | scale d hf => simp [compareOf, raisesIll, scale_eq, hf]
  | fieldMatch hf hc | fieldMismatch hf hc => simp [compareOf, raisesIll, scale_eq, compared_eq, hf, hc]
  | scaleReserved d hf | fieldReserved c d hf => simp [compareOf, raisesIll, raiseIll_eq, hf]
  | reserved => simp [compareOf, raisesIll, raiseIll_eq]
  | clear => exact absurd rfl hi

theorem matched_eq (h : CommandEffect s i t) (hi : i ≠ .clear) :
    t.status.matched = (compareOf s i).getD s.status.matched :=
  (h.flags_eq hi).1

theorem err_eq (h : CommandEffect s i t) (hi : i ≠ .clear) :
    t.status.err = (s.status.err || compareOf s i == some false) :=
  (h.flags_eq hi).2.1

theorem ill_eq (h : CommandEffect s i t) (hi : i ≠ .clear) : t.status.ill = (s.status.ill || raisesIll i) :=
  (h.flags_eq hi).2.2

end CommandEffect

/-! ### What the obligations say of a word, read off its decoded instruction -/

/-- `DecodesTo w i`: the opcode of `w` picks `i`, whose operands are fields of `w` (30_encoding.md R58, R66). -/
inductive DecodesTo (w : Word) : Instr → Prop where
  | nop (h : opField w = 0#4) : DecodesTo w .nop
  | crcInit (h : opField w = 1#4) : DecodesTo w .crcInit
  | crcByte (h : opField w = 2#4) : DecodesTo w (.crcByte (lField w))
  | crcWord (h : opField w = 3#4) : DecodesTo w (.crcWord (dField w))
  | crcCheck (h : opField w = 4#4) : DecodesTo w (.crcCheck (cField w))
  | scale (h : opField w = 5#4) : DecodesTo w (.scale (fField w) (dField w))
  | field (h : opField w = 6#4) : DecodesTo w (.field (fField w) (cField w) (dField w))
  | clear (h : opField w = 7#4) : DecodesTo w .clear
  | reserved (h : 8 ≤ (opField w).toNat) : DecodesTo w (.reserved (opField w))

theorem decodesTo_decodeWord (w : Word) : DecodesTo w (decodeWord w) := by
  rcases op_cases (opField w) with h | h | h | h | h | h | h | h | h
  · rw [decodeWord_nop h]; exact .nop h
  · rw [decodeWord_crcInit h]; exact .crcInit h
  · rw [decodeWord_crcByte h]; exact .crcByte h
  · rw [decodeWord_crcWord h]; exact .crcWord h
  · rw [decodeWord_crcCheck h]; exact .crcCheck h
  · rw [decodeWord_scale h]; exact .scale h
  · rw [decodeWord_field h]; exact .field h
  · rw [decodeWord_clear h]; exact .clear h
  · rw [decodeWord_reserved h]; exact .reserved h

theorem compareOf_field_eq_some_iff {s : State} {f : BitVec 4} {c : Byte} {d : Half} {b : Bool} :
    compareOf s (.field f c d) = some b ↔ f.toNat ≤ 8 ∧ (crcWord crcSeed d == c) = b := by
  by_cases hf : f.toNat < 9
  · simp [compareOf, fieldIndex?, hf, Nat.le_of_lt_succ hf]
  · simp [compareOf, fieldIndex?, hf, show ¬ f.toNat ≤ 8 by omega]

/-- A reserved opcode is none of the eight of R58. -/
theorem ne_of_reserved_opcode {op k : BitVec 4} (h : 8 ≤ op.toNat) (hk : k.toNat < 8) : op ≠ k := by
  rintro rfl
  omega

theorem scalingAfterCommand_eq_elim (w : Word) (before : Option (FieldIndex × Half)) :
    scalingAfterCommand w before =
      (fieldIndex? (fField w)).elim (if opField w = 7#4 then none else before) fun k =>
        if opField w = 5#4 then some (k, dField w)
        else if opField w = 6#4 then if crcWord crcSeed (dField w) = cField w then some (k, dField w) else none
        else if opField w = 7#4 then none
        else before := by
  unfold fieldIndex?
  by_cases hf : (fField w).toNat < 9
  · rw [dif_pos hf]; exact dif_pos hf
  · rw [dif_neg hf]; exact dif_neg hf

namespace DecodesTo
variable {w : Word} {i : Instr}

theorem eq_clear_iff (hd : DecodesTo w i) : i = .clear ↔ opField w = 7#4 := by
  cases hd with
  | nop h | crcInit h | crcByte h | crcWord h | crcCheck h | scale h | field h | clear h => simp [h]
  | reserved h => simp [ne_of_reserved_opcode h]

theorem compareOf_eq_some_iff (hd : DecodesTo w i) (s : State) (b : Bool) :
    compareOf s i = some b ↔
      (opField w = 4#4 ∧ (s.crc == cField w) = b) ∨
      (opField w = 6#4 ∧ (fField w).toNat ≤ 8 ∧ (Machine.crcWord crcSeed (dField w) == cField w) = b) := by
  cases hd with
  | nop h | crcInit h | crcByte h | crcWord h | scale h | clear h => simp [h, compareOf]
  | crcCheck h => simp [h, compareOf]
  | field h => simp [h, compareOf_field_eq_some_iff]
  | reserved h => simp [compareOf, ne_of_reserved_opcode h]

theorem compareFails_iff (hd : DecodesTo w i) (s : State) : CompareFails w s ↔ compareOf s i = some false := by
  rw [hd.compareOf_eq_some_iff, beq_eq_false_iff_ne, beq_eq_false_iff_ne]
  rfl

theorem compareSucceeds_iff (hd : DecodesTo w i) (s : State) : CompareSucceeds w s ↔ compareOf s i = some true := by
  rw [hd.compareOf_eq_some_iff, beq_iff_eq, beq_iff_eq]
  rfl

theorem reservedWord_iff (hd : DecodesTo w i) : ReservedWord w ↔ raisesIll i = true := by
  change 8 ≤ (opField w).toNat ∨ ((opField w = 5#4 ∨ opField w = 6#4) ∧ 9 ≤ (fField w).toNat) ↔ _
  cases hd with
  | nop h | crcInit h | crcByte h | crcWord h | crcCheck h | clear h => simp [h, raisesIll]
  | scale h | field h => simp [h, raisesIll, fieldIndex?_eq_none]
  | reserved h => simp [h, raisesIll]

theorem scalingAfterCommand_eq (hd : DecodesTo w i) (before : Option (FieldIndex × Half)) :
    scalingAfterCommand w before = scalingOf before i := by
  rw [scalingAfterCommand_eq_elim]
  cases hf : fieldIndex? (fField w) <;> cases hd with
  | nop h | crcInit h | crcByte h | crcWord h | crcCheck h | clear h => simp [h, scalingOf]
  | scale h | field h => simp [h, scalingOf, hf]
  | reserved h => simp [scalingOf, ne_of_reserved_opcode h]

end DecodesTo

/-! ### The effect of a host event -/

/-- `EventEffect s e t`: in the state `s` the event `e`, if it is not refused, leaves the state `t`. An accepted access
other than a CMD write changes at most the readout (20_memory.md R43, R44). -/
inductive EventEffect (s : State) : HostEvent → State → Prop where
  | command {w : Word} {t : State} (h : CommandEffect s (decodeWord w) t) : EventEffect s (cmdWrite s.cfg w) t
  | ignoredWrite {addr : Nat} (w : Word) (h : addr ≠ s.cfg.base) : EventEffect s (.write addr 4 w) s
  | read (addr : Nat) (v : Word) : EventEffect s (.read addr 4) (s.setReadout v)
  | reset : EventEffect s .reset s.cleared

theorem eventEffect_of_perform {e : HostEvent} {s t : State} (h : perform e s = .next t) : EventEffect s e t := by
  rcases perform_next h with ⟨w, rfl, hw⟩ | ⟨k, w, hk, -, rfl, rfl⟩ | ⟨k, -, rfl, rfl⟩ | ⟨rfl, rfl⟩
  · exact .command (exec_eq_next_iff.mp hw)
  · exact .ignoredWrite w (by omega)
  · exact .read _ _
  · exact .reset

theorem perform_cmdWrite (s : State) (w : Word) : perform (cmdWrite s.cfg w) s = exec (decodeWord w) s :=
  hostWrite_base s w

theorem EventEffect.cfg_eq {s t : State} {e : HostEvent} (h : EventEffect s e t) : t.cfg = s.cfg := by
  cases h with
  | command hi => exact hi.cfg_eq
  | ignoredWrite | read | reset => rfl

/-- What a step does: the effect of the oldest pending event, or nothing if none is pending. -/
theorem step_next {s t : State} (h : step s = .next t) :
    (s.pending = [] ∧ t = s) ∨ ∃ e rest, s.pending = e :: rest ∧ EventEffect (s.setPending rest) e t := by
  cases hp : s.pending with
  | nil => rw [step_idle hp] at h; cases h; exact .inl ⟨rfl, rfl⟩
  | cons e rest =>
    rw [step_of_pending hp] at h
    exact .inr ⟨e, rest, rfl, eventEffect_of_perform h⟩

/-! ### The result registers and the history of accesses -/

section result
variable {s t : State} {before : Option (FieldIndex × Half)}

/-- Registers outside the result, VALID and LASTF do not matter to `HoldsResult`. -/
theorem HoldsResult.congr (h : HoldsResult s before) (hcfg : t.cfg = s.cfg) (hvalid : t.status.valid = s.status.valid)
    (hlastf : t.status.lastf = s.status.lastf) (hquot : t.quot = s.quot) (hrem : t.rem = s.rem)
    (hdivr : t.divr = s.divr) : HoldsResult t before := by
  cases before <;> simpa only [HoldsResult, HoldsScaling, hcfg, hvalid, hlastf, hquot, hrem, hdivr] using h

theorem holdsResult_scale (s : State) (k : FieldIndex) (d : Half) : HoldsResult (s.scale k d) (some (k, d)) :=
  ⟨rfl, rfl, rfl, rfl, rfl⟩

theorem holdsResult_cleared (s : State) : HoldsResult s.cleared none := ⟨rfl, rfl, rfl, rfl⟩

theorem CommandEffect.holdsResult {i : Instr} (h : CommandEffect s i t) (hs : HoldsResult s before) :
    HoldsResult t (scalingOf before i) := by
  cases h with
  | nop | crcInit | crcByte | crcWord | crcCheck | reserved => exact hs.congr rfl rfl rfl rfl rfl rfl
  | scale d hf => simpa [scalingOf, hf] using holdsResult_scale s _ d
  | scaleReserved d hf | fieldReserved c d hf =>
    simpa [scalingOf, hf] using hs.congr (t := s.raiseIll) rfl rfl rfl rfl rfl rfl
  | fieldMatch hf hc => simpa [scalingOf, hf, hc] using holdsResult_scale _ _ _
  | fieldMismatch hf hc => simp [scalingOf, hf, hc, HoldsResult]
  | clear => exact holdsResult_cleared s

theorem EventEffect.holdsResult {e : HostEvent} (h : EventEffect s e t) (hs : HoldsResult s before) :
    HoldsResult t (scalingAfter s.cfg before e) := by
  cases h with
  | @command w _ hi =>
    simpa [cmdWrite, scalingAfter, (decodesTo_decodeWord w).scalingAfterCommand_eq] using hi.holdsResult hs
  | ignoredWrite w haddr => simpa [scalingAfter, haddr] using hs
  | read => exact hs.congr rfl rfl rfl rfl rfl rfl
  | reset => exact holdsResult_cleared s

end result

/-- Settles O48: the effect of the event performed, from a state whose pending list alone differs. -/
theorem everyStepKeepsTheResultRegistersTrueToTheHistory :
    Obligations.EveryStepKeepsTheResultRegistersTrueToTheHistory := by
  intro before s t hs hstep
  rcases step_next hstep with ⟨hp, rfl⟩ | ⟨e, rest, hp, he⟩
  · exact ⟨by simp [hp], fun _ => hs⟩
  · refine ⟨fun e' rest' hp' => ?_, by simp [hp]⟩
    cases hp.symm.trans hp'
    exact he.holdsResult (hs.congr rfl rfl rfl rfl rfl rfl)

/-! ### The invariant -/

/-- The invariant says of the result registers that some history explains them. -/
theorem inv_iff_exists_holdsResult {s : State} :
    s.Inv ↔ s.status.lastf.toNat ≤ 8 ∧ ∃ before, HoldsResult s before := by
  constructor
  · rintro ⟨hlastf, hclear, hscaled⟩
    cases hv : s.status.valid with
    | false => exact ⟨hlastf, none, hv, hclear hv⟩
    | true =>
      obtain ⟨f, d, h⟩ := hscaled hv
      exact ⟨hlastf, some (f, d), hv, h⟩
  · rintro ⟨hlastf, _ | ⟨f, d⟩, hv, h⟩
    · exact ⟨hlastf, fun _ => h, by simp [hv]⟩
    · exact ⟨hlastf, by simp [hv], fun _ => ⟨f, d, h⟩⟩

theorem toNat_ofNat_fieldIndex (f : FieldIndex) : (BitVec.ofNat 4 f.val).toNat = f.val := by
  revert f; decide

theorem CommandEffect.lastf_le {s t : State} {i : Instr} (h : CommandEffect s i t) (hs : s.status.lastf.toNat ≤ 8) :
    t.status.lastf.toNat ≤ 8 := by
  cases h with
  | nop | crcInit | crcByte | crcWord | crcCheck | scaleReserved | fieldReserved | reserved => exact hs
  | clear => exact Nat.zero_le 8
  | @scale f k | @fieldMatch f k | @fieldMismatch f k =>
    exact (toNat_ofNat_fieldIndex k).trans_le (Nat.le_of_lt_succ k.isLt)

theorem EventEffect.lastf_le {s t : State} {e : HostEvent} (h : EventEffect s e t) (hs : s.status.lastf.toNat ≤ 8) :
    t.status.lastf.toNat ≤ 8 := by
  cases h with
  | command hi => exact hi.lastf_le hs
  | ignoredWrite | read => exact hs
  | reset => exact Nat.zero_le 8

/-- Settles O45: an event keeps LASTF at most 8, and carries what explains the result registers on. -/
theorem everyStepKeepsTheInvariant : Obligations.EveryStepKeepsTheInvariant := by
  intro s t hinv hstep
  rcases step_next hstep with ⟨-, rfl⟩ | ⟨e, rest, -, he⟩
  · exact hinv
  · obtain ⟨hlastf, before, hs⟩ := inv_iff_exists_holdsResult.mp hinv
    exact inv_iff_exists_holdsResult.mpr
      ⟨he.lastf_le hlastf, _, he.holdsResult (hs.congr rfl rfl rfl rfl rfl rfl)⟩

theorem inv_resetWith (c : Config) : (State.resetWith c).Inv :=
  inv_iff_exists_holdsResult.mpr ⟨Nat.zero_le 8, none, rfl, rfl, rfl, rfl⟩

/-- Settles O44: nothing is scaled at reset. -/
theorem invariantHoldsAtReset : Obligations.InvariantHoldsAtReset := ⟨inv_resetWith _, inv_resetWith⟩

/-! ### Runs and reachable states -/

theorem performAll_cons_eq_next_iff {e : HostEvent} {es : List HostEvent} {s t : State} :
    performAll (e :: es) s = .next t ↔ ∃ m, perform e s = .next m ∧ performAll es m = .next t := by
  cases h : perform e s <;> simp [performAll, h]

theorem performAll_holdsResult {es : List HostEvent} {s t : State} {before : Option (FieldIndex × Half)}
    (h : performAll es s = .next t) (hs : HoldsResult s before) :
    t.cfg = s.cfg ∧ HoldsResult t (es.foldl (scalingAfter s.cfg) before) := by
  induction es generalizing s before with
  | nil => cases h; exact ⟨rfl, hs⟩
  | cons e es ih =>
    obtain ⟨m, he, hes⟩ := performAll_cons_eq_next_iff.mp h
    have heff := eventEffect_of_perform he
    have hrun := ih hes (heff.holdsResult hs)
    rwa [heff.cfg_eq] at hrun

/-- Settles O39, by induction over the events. -/
theorem resultRegistersHoldTheLatestUnclearedScaling : Obligations.ResultRegistersHoldTheLatestUnclearedScaling := by
  intro c es t h
  obtain ⟨hcfg, hres⟩ := performAll_holdsResult (before := none) h ⟨rfl, rfl, rfl, rfl⟩
  change HoldsResult t (es.foldl (scalingAfter c) none) at hres
  split
  · next heq => rwa [heq] at hres
  · next heq =>
    rw [heq] at hres
    obtain ⟨hvalid, hscaling⟩ := hres
    exact ⟨hvalid, hcfg, hscaling⟩

theorem step_cfg {s t : State} (h : step s = .next t) : t.cfg = s.cfg := by
  rcases step_next h with ⟨-, rfl⟩ | ⟨e, rest, -, he⟩
  · rfl
  · exact he.cfg_eq

/-- R37's induction: the invariant holds at reset and every step keeps it. -/
theorem Reachable.inv {c : Config} {s : State} (h : Reachable c s) : s.Inv := by
  induction h with
  | reset es v => exact inv_resetWith c
  | step _ hstep ih => exact everyStepKeepsTheInvariant _ _ ih hstep

theorem Reachable.cfg_eq {c : Config} {s : State} (h : Reachable c s) : s.cfg = c := by
  induction h with
  | reset es v => rfl
  | step _ hstep ih => rw [step_cfg hstep, ih]

/-! ### The numbers a scaling leaves -/

theorem abs_trem_lt (v : Int) {n : Int} (hn : 0 < n) : |trem v n| < n := by
  rw [trem_eq, abs_lt]
  exact ⟨Int.lt_tmod_of_pos v hn, Int.tmod_lt_of_pos v hn⟩

theorem trem_eq_zero_or_sign_eq (v n : Int) : trem v n = 0 ∨ (trem v n).sign = v.sign := by
  rw [trem_eq]
  by_cases hdvd : n ∣ v
  · exact .inl (Int.tmod_eq_zero_of_dvd hdvd)
  · exact .inr (by rw [Int.sign_tmod, if_neg hdvd])

theorem toInt_ofInt_trem (v : Int) {n : Nat} (hpos : 0 < n) (hn : n ≤ 200) :
    (BitVec.ofInt 32 (trem v n)).toInt = trem v n := by
  have h := abs_lt.mp (abs_trem_lt v (Int.natCast_pos.mpr hpos))
  exact BitVec.toInt_ofInt_eq_self (by decide) (by omega) (by omega)

theorem toNat_ofNat_divisor (c : Config) (f : FieldIndex) : (BitVec.ofNat 16 (c.divisor f)).toNat = c.divisor f := by
  have h := divisor_le c f
  rw [BitVec.toNat_ofNat, Nat.mod_eq_of_lt (by omega)]

/-- Settles O46: the invariant of a reachable state, and the numbers of the scaling it names. -/
theorem reachableStatesMeetTheInvariantsOfTheSpec : Obligations.ReachableStatesMeetTheInvariantsOfTheSpec := by
  refine ⟨fun c s hr => ?_, fun c => ⟨.reset [] none, rfl, rfl, ?_⟩⟩
  · obtain ⟨hlastf, hclear, hscaled⟩ := hr.inv
    refine ⟨hclear, fun hv => ⟨hr.cfg_eq, ?_⟩, hlastf⟩
    obtain ⟨f, d, hs⟩ := hscaled hv
    obtain rfl := hr.cfg_eq
    have ⟨hfield, _, hrem, hdivr⟩ := hs
    have hremInt : s.rem.toInt = trem (raw s.cfg f d) (s.cfg.divisor f) := by
      rw [hrem, toInt_ofInt_trem _ (divisor_pos _ f) (divisor_le _ f)]
    have hdivrNat : s.divr.toNat = s.cfg.divisor f := by rw [hdivr, toNat_ofNat_divisor]
    refine ⟨f, d, hs, by rw [hfield, toNat_ofNat_fieldIndex], hdivrNat, ?_, ?_⟩
    · rw [hremInt, hdivrNat]
      exact abs_trem_lt _ (Int.natCast_pos.mpr (divisor_pos _ f))
    · rw [hremInt]
      exact trem_eq_zero_or_sign_eq _ _
  · have hstep : step { State.resetWith c with pending := [cmdWrite c 0x10000000#32], readout := none } =
        exec .crcInit (State.resetWith c) := perform_cmdWrite (State.resetWith c) 0x10000000#32
    exact ⟨_, rfl, .step (.reset _ none) (hstep.trans rfl), rfl, rfl⟩

/-! ### MATCH, ERR, ILL and LASTF -/

theorem ne_clear_of_compareOf {s : State} {i : Instr} {b : Bool} (h : compareOf s i = some b) : i ≠ .clear := by
  rintro rfl
  cases h

theorem CommandEffect.eq_raiseIll {s t : State} {i : Instr} (h : CommandEffect s i t) (hi : raisesIll i = true) :
    t = s.raiseIll := by
  cases h with
  | scaleReserved | fieldReserved | reserved => rfl
  | nop | crcInit | crcByte | crcWord | crcCheck | clear => cases hi
  | scale d hf | fieldMatch hf | fieldMismatch hf => simp [raisesIll, hf] at hi

/-- Settles O37, from the compare the decoded command makes. -/
theorem matchIsTheResultOfTheLatestCompare : Obligations.MatchIsTheResultOfTheLatestCompare := by
  intro w s
  obtain ⟨t, h⟩ := exists_commandEffect (decodeWord w) s
  have hd := decodesTo_decodeWord w
  rw [hd.compareSucceeds_iff, hd.compareFails_iff]
  refine ⟨t, h.exec, fun hc => ?_, fun hc => ?_, fun h7 => ?_, fun hsucc hfail h7 => ?_⟩
  · rw [h.matched_eq (ne_clear_of_compareOf hc), hc]; rfl
  · rw [h.matched_eq (ne_clear_of_compareOf hc), hc]; rfl
  · rw [decodeWord_clear h7] at h
    rw [h.eq_cleared]; rfl
  · have hnone : compareOf s (decodeWord w) = none := by
      rcases hc : compareOf s (decodeWord w) with _ | _ | _
      exacts [rfl, absurd hc hfail, absurd hc hsucc]
    rw [h.matched_eq (mt hd.eq_clear_iff.mp h7), hnone]; rfl

/-! ### Events that clear, and the flags after one that does not -/

theorem perform_of_clears {e : HostEvent} {s : State} (h : e.Clears s.cfg) : perform e s = .next s.cleared := by
  rcases h with rfl | ⟨w, rfl, h7⟩
  · rfl
  · rw [← cmdWrite, perform_cmdWrite, decodeWord_clear h7]; rfl

section event
variable {s t : State} {e : HostEvent}

/-- An event that does not clear runs a command other than CLEAR, or writes no command and leaves STATUS alone. -/
theorem EventEffect.cases_of_not_clears (h : EventEffect s e t) (hc : ¬ e.Clears s.cfg) :
    (∃ w, e = cmdWrite s.cfg w ∧ decodeWord w ≠ .clear ∧ CommandEffect s (decodeWord w) t) ∨
    ((∀ w, e ≠ cmdWrite s.cfg w) ∧ t.status = s.status) := by
  cases h with
  | @command w _ hi =>
    exact .inl ⟨w, rfl, fun hw => hc (.inr ⟨w, rfl, (decodesTo_decodeWord w).eq_clear_iff.mp hw⟩), hi⟩
  | ignoredWrite w haddr => exact .inr ⟨by simp [cmdWrite, haddr], rfl⟩
  | read => exact .inr ⟨by simp [cmdWrite], rfl⟩
  | reset => exact absurd (.inl rfl) hc

theorem exists_cmdWrite_eq_iff {c : Config} {w : Word} {p : Word → Prop} :
    (∃ v, cmdWrite c w = cmdWrite c v ∧ p v) ↔ p w := by
  simp [cmdWrite]

theorem EventEffect.err_iff (h : EventEffect s e t) (hc : ¬ e.Clears s.cfg) :
    t.status.err = true ↔ s.status.err = true ∨ ∃ w, e = cmdWrite s.cfg w ∧ CompareFails w s := by
  rcases h.cases_of_not_clears hc with ⟨w, rfl, hw, hi⟩ | ⟨hne, hst⟩
  · rw [exists_cmdWrite_eq_iff, (decodesTo_decodeWord w).compareFails_iff, hi.err_eq hw]
    simp
  · simp [hne, hst]

theorem EventEffect.ill_iff (h : EventEffect s e t) (hc : ¬ e.Clears s.cfg) :
    t.status.ill = true ↔ s.status.ill = true ∨ ∃ w, e = cmdWrite s.cfg w ∧ ReservedWord w := by
  rcases h.cases_of_not_clears hc with ⟨w, rfl, hw, hi⟩ | ⟨hne, hst⟩
  · rw [exists_cmdWrite_eq_iff, (decodesTo_decodeWord w).reservedWord_iff, hi.ill_eq hw]
    simp
  · simp [hne, hst]

end event

/-- Some event of a run from `s` writes a command whose compare fails in the state it meets (10_state.md R26). -/
def SomeCompareFails (c : Config) (es : List HostEvent) (s : State) : Prop :=
  ∃ before w after m, es = before ++ cmdWrite c w :: after ∧ performAll before s = .next m ∧ CompareFails w m

theorem not_someCompareFails_nil (c : Config) (s : State) : ¬ SomeCompareFails c [] s := by
  rintro ⟨before, w, after, m, h, -⟩
  simp at h

theorem someCompareFails_cons_iff {c : Config} {e : HostEvent} {es : List HostEvent} {s m : State}
    (h : perform e s = .next m) :
    SomeCompareFails c (e :: es) s ↔ (∃ w, e = cmdWrite c w ∧ CompareFails w s) ∨ SomeCompareFails c es m := by
  constructor
  · rintro ⟨before, w, after, u, heq, hrun, hfail⟩
    cases before with
    | nil =>
      cases hrun
      cases heq
      exact .inl ⟨w, rfl, hfail⟩
    | cons b before =>
      cases heq
      rw [performAll_cons_of_next h] at hrun
      exact .inr ⟨before, w, after, u, rfl, hrun, hfail⟩
  · rintro (⟨w, rfl, hfail⟩ | ⟨before, w, after, u, rfl, hrun, hfail⟩)
    · exact ⟨[], w, es, s, rfl, rfl, hfail⟩
    · exact ⟨e :: before, w, after, u, rfl, by rw [performAll_cons_of_next h, hrun], hfail⟩

theorem performAll_err_iff {es : List HostEvent} {s t : State} (hc : ∀ x ∈ es, ¬ x.Clears s.cfg)
    (h : performAll es s = .next t) :
    t.status.err = true ↔ s.status.err = true ∨ SomeCompareFails s.cfg es s := by
  induction es generalizing s with
  | nil => cases h; simp [not_someCompareFails_nil]
  | cons e es ih =>
    obtain ⟨m, he, hes⟩ := performAll_cons_eq_next_iff.mp h
    have heff := eventEffect_of_perform he
    have hcfg := heff.cfg_eq
    obtain ⟨hc0, hcs⟩ := List.forall_mem_cons.mp hc
    rw [ih (by rwa [hcfg]) hes, heff.err_iff hc0, someCompareFails_cons_iff he, hcfg, or_assoc]

/-- Settles O38: ERR after an event that does not clear, carried over a run by induction. -/
theorem errIsOneExactlyWhenSomeCompareFailed : Obligations.ErrIsOneExactlyWhenSomeCompareFailed := by
  refine ⟨fun w s => ?_, fun e s t h hs ht => ?_, fun e s hc => ⟨_, perform_of_clears hc, rfl⟩,
    fun e es s s0 t hc h0 hes h => ?_⟩
  · obtain ⟨t, h⟩ := exists_commandEffect (decodeWord w) s
    have hd := decodesTo_decodeWord w
    rw [hd.compareSucceeds_iff, hd.compareFails_iff]
    refine ⟨t, h.exec, fun hf => ?_, fun hf => ?_⟩
    · simp [h.err_eq (ne_clear_of_compareOf hf), hf]
    · simp [h.err_eq (ne_clear_of_compareOf hf), hf]
  · by_contra hc
    have ht' := ((eventEffect_of_perform h).err_iff hc).mpr (.inl hs)
    simp [ht] at ht'
  · cases (perform_of_clears hc).symm.trans h0
    exact (performAll_err_iff (s := s.cleared) hes h).trans (or_iff_right Bool.false_ne_true)

/-- Settles O40, from what the event adds to ILL if it does not clear. -/
theorem illIsSetByReservedWordsAndClearedByClearOrReset :
    Obligations.IllIsSetByReservedWordsAndClearedByClearOrReset := by
  refine ⟨fun w s hw => ?_, fun e s t h hs ht => ?_, fun e s t h hs ht => ?_,
    fun e s hc => ⟨_, perform_of_clears hc, rfl⟩⟩
  · obtain ⟨t, h⟩ := exists_commandEffect (decodeWord w) s
    exact ⟨t, h.exec, by rw [h.eq_raiseIll ((decodesTo_decodeWord w).reservedWord_iff.mp hw)]; rfl⟩
  · have hc : ¬ e.Clears s.cfg := by
      intro hc
      cases (perform_of_clears hc).symm.trans h
      cases ht
    simpa [hs] using ((eventEffect_of_perform h).ill_iff hc).mp ht
  · by_contra hc
    have ht' := ((eventEffect_of_perform h).ill_iff hc).mpr (.inl hs)
    simp [ht] at ht'

/-- Settles O41, case by case of the effects, and by the invariant for the reachable states. -/
theorem lastfNamesTheLatestField : Obligations.LastfNamesTheLatestField := by
  refine ⟨fun f d s => ⟨_, CommandEffect.exec (.scale d (fieldIndex?_ofNat f)), rfl⟩, fun f c d s => ?_,
    fun e s hc => ⟨_, perform_of_clears hc, rfl⟩, fun w s hw => ?_, fun c s hr => ?_⟩
  · by_cases hc : crcWord crcSeed d = c
    · exact ⟨_, CommandEffect.exec (.fieldMatch (fieldIndex?_ofNat f) hc), rfl⟩
    · exact ⟨_, CommandEffect.exec (.fieldMismatch (fieldIndex?_ofNat f) hc), rfl⟩
  · obtain ⟨t, h⟩ := exists_commandEffect (decodeWord w) s
    exact ⟨t, h.exec, by rw [h.eq_raiseIll ((decodesTo_decodeWord w).reservedWord_iff.mp hw)]; rfl⟩
  · obtain ⟨hlastf, -⟩ := hr.inv
    exact hlastf

/-! ### A frame of triples -/

/-- The FIELD command of one triple of a frame and its place (30_encoding.md R65). -/
def fieldCommandOf (x : (Half × Byte) × Nat) : Instr := .field (BitVec.ofNat 4 x.2) x.1.2 x.1.1

theorem frameCommands_eq (fields : List (Half × Byte)) :
    frameCommands fields = .clear :: (fields.zipIdx 0).map fieldCommandOf := rfl

theorem compareOf_fieldCommandOf (s : State) (p : Half × Byte) {k : Nat} (hk : k < 9) :
    compareOf s (fieldCommandOf (p, k)) = some (crcWord crcSeed p.1 == p.2) := by
  simp [compareOf, fieldCommandOf, fieldIndex?_ofNat ⟨k, hk⟩]

theorem execAll_fieldCommands (fields : List (Half × Byte)) (k : Nat) (s : State) (hk : k + fields.length ≤ 9) :
    ∃ t, execAll ((fields.zipIdx k).map fieldCommandOf) s = .next t ∧
      (t.status.err = false ↔ s.status.err = false ∧ ∀ p ∈ fields, crcWord crcSeed p.1 = p.2) := by
  induction fields generalizing k s with
  | nil => exact ⟨s, rfl, by simp⟩
  | cons p fields ih =>
    rw [List.length_cons] at hk
    obtain ⟨m, hm⟩ := exists_commandEffect (fieldCommandOf (p, k)) s
    obtain ⟨t, ht, herr⟩ := ih (k + 1) m (by omega)
    have hcmp := compareOf_fieldCommandOf s p (k := k) (by omega)
    refine ⟨t, by rw [List.zipIdx_cons, List.map_cons, execAll_cons_of_next hm.exec, ht], ?_⟩
    rw [herr, hm.err_eq (ne_clear_of_compareOf hcmp), hcmp]
    simp [and_assoc]

/-- Settles O47: CLEAR leaves ERR 0, and then each FIELD command of the frame sets it exactly on a mismatch. -/
theorem frameOfNineFieldsIsAcceptedExactlyWhenEveryChecksumMatches :
    Obligations.FrameOfNineFieldsIsAcceptedExactlyWhenEveryChecksumMatches := by
  intro fields s hlen
  obtain ⟨t, ht, herr⟩ := execAll_fieldCommands fields 0 s.cleared (by omega)
  refine ⟨t, by rw [frameCommands_eq, execAll_cons_of_next (CommandEffect.clear).exec, ht], ?_⟩
  rw [herr]
  exact and_iff_right rfl

/-! ### Frames: what a command leaves alone, and what it does not read -/

/-- Settles O34, by the effect of each command. -/
theorem flagsChangeOnlyByTheirCommands : Obligations.FlagsChangeOnlyByTheirCommands := by
  intro i s t h
  cases exec_eq_next_iff.mp h with
  | nop | crcInit | crcByte | crcWord => simp
  | crcCheck => simp +contextual [compared_eq]
  | scale | fieldMatch | fieldMismatch => simp +contextual [scale_eq, compared_eq]
  | scaleReserved d hf | fieldReserved c d hf => simp [raiseIll_eq, fieldIndex?_eq_none.mp hf]
  | reserved => simp [raiseIll_eq]
  | clear => simp +contextual [cleared_eq, State.resetWith]

/-- Settles O35, by the effect of each command. -/
theorem registersChangeOnlyByTheirCommands : Obligations.RegistersChangeOnlyByTheirCommands := by
  intro i s
  obtain ⟨t, h⟩ := exists_commandEffect i s
  refine ⟨t, h.exec, ?_⟩
  cases h with
  | nop | crcInit | crcByte | crcWord => simp
  | crcCheck => simp [compared_eq]
  | scale | fieldMatch | fieldMismatch => simp [scale_eq, compared_eq]
  | scaleReserved | fieldReserved | reserved => simp [raiseIll_eq]
  | clear => simp [cleared_eq, State.resetWith]

/-- No command reads STATUS but to write it (10_state.md R38). -/
theorem CommandEffect.with_status {s t : State} {i : Instr} (h : CommandEffect s i t) (st : Status) :
    ∃ st', CommandEffect { s with status := st } i { t with status := st' } := by
  cases h with
  | nop => exact ⟨_, .nop⟩
  | crcInit => exact ⟨_, .crcInit⟩
  | crcByte l => exact ⟨_, .crcByte l⟩
  | crcWord d => exact ⟨_, .crcWord d⟩
  | crcCheck c => exact ⟨_, .crcCheck c⟩
  | scale d hf => exact ⟨_, .scale d hf⟩
  | scaleReserved d hf => exact ⟨_, .scaleReserved d hf⟩
  | fieldMatch hf hc => exact ⟨_, .fieldMatch hf hc⟩
  | fieldMismatch hf hc => exact ⟨_, .fieldMismatch hf hc⟩
  | fieldReserved c d hf => exact ⟨_, .fieldReserved c d hf⟩
  | clear => exact ⟨_, .clear⟩
  | reserved op => exact ⟨_, .reserved op⟩

/-- Settles O36: the effect with another STATUS differs in STATUS alone. -/
theorem noCommandReadsAFlag : Obligations.NoCommandReadsAFlag := by
  intro i s st
  obtain ⟨t, h⟩ := exists_commandEffect i s
  obtain ⟨st', h'⟩ := h.with_status st
  exact ⟨t, _, h.exec, h'.exec, rfl, rfl, rfl, rfl⟩

/-- Only the scaling commands read the parameters (10_state.md R34). -/
theorem CommandEffect.with_cfg {s t : State} {i : Instr} (h : CommandEffect s i t) (c : Config)
    (hscale : ∀ f d, i ≠ .scale f d) (hfield : ∀ f k d, i ≠ .field f k d) :
    CommandEffect { s with cfg := c } i { t with cfg := c } := by
  cases h with
  | nop => exact .nop
  | crcInit => exact .crcInit
  | crcByte l => exact .crcByte l
  | crcWord d => exact .crcWord d
  | crcCheck k => exact .crcCheck k
  | scale | scaleReserved => exact absurd rfl (hscale _ _)
  | fieldMatch | fieldMismatch | fieldReserved => exact absurd rfl (hfield _ _ _)
  | clear => exact .clear
  | reserved op => exact .reserved op

theorem readSlot_with_cfg (s : State) (c : Config) (sl : Slot) : readSlot { s with cfg := c } sl = readSlot s sl := by
  cases sl <;> rfl

/-- Settles O8: an event keeps the parameters, and only the scaling commands read them. -/
theorem configurationIsConstant : Obligations.ConfigurationIsConstant :=
  ⟨fun _ _ h => step_cfg h,
    fun _ _ _ c hscale hfield h => ((exec_eq_next_iff.mp h).with_cfg c hscale hfield).exec, readSlot_with_cfg⟩

/-! ### Reset and the step -/

theorem atResetValues_resetWith (c : Config) : AtResetValues (State.resetWith c) :=
  ⟨rfl, rfl, rfl, rfl, rfl, rfl, rfl, rfl, rfl⟩

theorem atResetValues_cleared (s : State) : AtResetValues s.cleared := atResetValues_resetWith s.cfg

/-- Settles O1: the reset event and CLEAR both leave the state of `cleared_eq`. -/
theorem resetAndClearGiveEveryRegisterItsResetValue : Obligations.ResetAndClearGiveEveryRegisterItsResetValue :=
  ⟨atResetValues_resetWith, atResetValues_resetWith _, fun s => ⟨_, rfl, atResetValues_cleared s, rfl⟩,
    fun s => ⟨_, rfl, atResetValues_cleared s, rfl⟩⟩

theorem step_withFetchWord (s : State) (nbits w : Nat) :
    step (s.withFetchWord nbits w) = exec (decodeWord (BitVec.ofNat 32 (w % 2 ^ nbits))) s :=
  perform_cmdWrite s _

theorem decodeTableWord_eq_some {nbits w : Nat} {i : Instr} (h : decodeTableWord nbits w = some i) :
    i = decodeWord (BitVec.ofNat 32 (w % 2 ^ nbits)) := by
  by_cases hn : nbits ≤ 32
  · exact Option.some.inj (h.symm.trans (decodeTableWord_eq nbits w hn))
  · simp [decodeTableWord, decodeBits, Nat.lt_of_not_le hn] at h

/-- Settles O2: a step performs the oldest event, and a CMD write runs the decoded word. -/
theorem stepRunsTheDecodedCommand : Obligations.StepRunsTheDecodedCommand := by
  refine ⟨fun s e rest hp => step_of_pending hp, fun s hp => step_idle hp, fun s w rest hp => ?_,
    fun s nbits w i hi => ?_⟩
  · exact (step_of_pending hp).trans (perform_cmdWrite (s.setPending rest) w)
  · rw [step_withFetchWord, decodeTableWord_eq_some hi]

end Sys2Proof.Machine

/-! PROOFS, family 20_memory: the register window and the host's accesses to it (spec 20_memory.md R40 to R51). What an
access at a slot's address does is said once; a refusal depends on BASE and the access alone; no event looks at the
accesses still pending, and no read looks at what was read before. -/

namespace Sys2Proof.Machine

/-! ### Accesses at the addresses of the slots, and all others -/

theorem slotAt_ne_cmd {k : Nat} (h : 0 < k) : slotAt k ≠ .cmd := by
  unfold slotAt
  split
  · exact absurd h (Nat.lt_irrefl 0)
  all_goals decide

theorem perform_read_of_ok {s : State} {addr width : Nat} {sl : Slot} (h : acceptedSlot s.cfg addr width = .ok sl) :
    perform (.read addr width) s = .next (s.setReadout (readSlot s sl)) := by
  simp [perform, hostRead, h]

theorem perform_write_of_ok {s : State} {addr width : Nat} {sl : Slot} (h : acceptedSlot s.cfg addr width = .ok sl)
    (w : Word) : perform (.write addr width w) s = writeSlot w s sl := by
  simp [perform, hostWrite, h]

theorem perform_read_of_error {s : State} {addr width : Nat} {r : Refusal}
    (h : acceptedSlot s.cfg addr width = .error r) : perform (.read addr width) s = .refused r := by
  simp [perform, hostRead, h]

theorem perform_write_of_error {s : State} {addr width : Nat} {r : Refusal}
    (h : acceptedSlot s.cfg addr width = .error r) (w : Word) : perform (.write addr width w) s = .refused r := by
  simp [perform, hostWrite, h]

theorem perform_read_at (s : State) {k : Nat} (hk : k < 8) :
    perform (.read (s.cfg.base + 4 * k) 4) s = .next (s.setReadout (readSlot s (slotAt k))) :=
  perform_read_of_ok (acceptedSlot_at s.cfg hk)

theorem perform_write_at (s : State) {k : Nat} (hk : k < 8) (w : Word) :
    perform (.write (s.cfg.base + 4 * k) 4 w) s = writeSlot w s (slotAt k) :=
  perform_write_of_ok (acceptedSlot_at s.cfg hk) w

theorem perform_ignoredWrite (s : State) {k : Nat} (h0 : 0 < k) (hk : k < 8) (w : Word) :
    perform (.write (s.cfg.base + 4 * k) 4 w) s = .next s := by
  rw [perform_write_at s hk, writeSlot_of_ne_cmd w s (slotAt_ne_cmd h0)]

theorem exists_writeSlot_eq_next (w : Word) (s : State) (sl : Slot) : ∃ t, writeSlot w s sl = .next t := by
  by_cases h : sl = .cmd
  · obtain ⟨t, ht⟩ := exists_commandEffect (decodeWord w) s
    exact ⟨t, by rw [h]; exact ht.exec⟩
  · exact ⟨s, writeSlot_of_ne_cmd w s h⟩

theorem exists_acceptedSlot_eq_error {c : Config} {addr width : Nat} (h : ¬ Accepted c addr width) :
    ∃ r, acceptedSlot c addr width = .error r := by
  cases hs : acceptedSlot c addr width with
  | error r => exact ⟨r, rfl⟩
  | ok sl => exact absurd (acceptedSlot_ok_iff.mp ⟨sl, hs⟩) h

theorem readSlot_crc (s : State) : readSlot s .crc = 0#24 ++ s.crc := BitVec.setWidth_eq_append (by decide)

theorem readSlot_divr (s : State) : readSlot s .divr = 0#16 ++ s.divr := BitVec.setWidth_eq_append (by decide)

/-- Settles O3, slot by slot. -/
theorem registerMapReadsAndWrites : Obligations.RegisterMapReadsAndWrites := by
  refine ⟨fun s k v h => ?_, fun s k w h0 hk => perform_ignoredWrite s h0 hk w, perform_cmdWrite⟩
  rcases h with ⟨rfl, rfl⟩ | ⟨rfl, rfl⟩ | ⟨rfl, rfl⟩ | ⟨rfl, rfl⟩ | ⟨rfl, rfl⟩ | ⟨rfl, rfl⟩ | ⟨rfl, rfl⟩ |
    ⟨rfl, rfl⟩
  · exact perform_read_at s (k := 0) (by decide)
  · exact perform_read_at s (k := 1) (by decide)
  · rw [← readSlot_crc]
    exact perform_read_at s (k := 2) (by decide)
  · exact perform_read_at s (k := 3) (by decide)
  · exact perform_read_at s (k := 4) (by decide)
  · rw [← readSlot_divr]
    exact perform_read_at s (k := 5) (by decide)
  · exact perform_read_at s (k := 6) (by decide)
  · exact perform_read_at s (k := 7) (by decide)

/-- Settles O4: an accepted access names a slot, and every other one is an error of `acceptedSlot`. -/
theorem exactlyTheAlignedWordAccessesInTheWindowAreAccepted :
    Obligations.ExactlyTheAlignedWordAccessesInTheWindowAreAccepted := by
  refine fun s addr width w => ⟨?_, fun h => ?_⟩
  · rintro ⟨rfl, k, hk, rfl⟩
    exact ⟨⟨_, perform_read_at s hk⟩, by rw [perform_write_at s hk]; exact exists_writeSlot_eq_next w s _⟩
  · obtain ⟨r, hr⟩ := exists_acceptedSlot_eq_error h
    exact ⟨⟨r, perform_read_of_error hr⟩, ⟨r, perform_write_of_error hr w⟩⟩

/-! ### No event looks at the accesses still pending -/

theorem CommandEffect.setPending {s t : State} {i : Instr} (h : CommandEffect s i t) (es : List HostEvent) :
    CommandEffect (s.setPending es) i (t.setPending es) := by
  cases h with
  | nop => exact .nop
  | crcInit => exact .crcInit
  | crcByte l => exact .crcByte l
  | crcWord d => exact .crcWord d
  | crcCheck c => exact .crcCheck c
  | scale d hf => exact .scale d hf
  | scaleReserved d hf => exact .scaleReserved d hf
  | fieldMatch hf hc => exact .fieldMatch hf hc
  | fieldMismatch hf hc => exact .fieldMismatch hf hc
  | fieldReserved c d hf => exact .fieldReserved c d hf
  | clear => exact .clear
  | reserved op => exact .reserved op

/-- The read value of a slot is that of the registers: the host's own fields are no part of it (R42, R43). -/
theorem readSlot_with_hostFields (s : State) (es : List HostEvent) (v : Option Word) (sl : Slot) :
    readSlot { s with pending := es, readout := v } sl = readSlot s sl := by
  cases sl <;> rfl

theorem perform_setPending_of_next {e : HostEvent} {s t : State} (h : perform e s = .next t) (es : List HostEvent) :
    perform e (s.setPending es) = .next (t.setPending es) := by
  rcases perform_next h with ⟨w, rfl, hw⟩ | ⟨k, w, h0, hk, rfl, rfl⟩ | ⟨k, hk, rfl, rfl⟩ | ⟨rfl, rfl⟩
  · exact (perform_cmdWrite (s.setPending es) w).trans ((exec_eq_next_iff.mp hw).setPending es).exec
  · exact perform_ignoredWrite (t.setPending es) h0 hk w
  · rw [← readSlot_with_hostFields s es s.readout]
    exact perform_read_at (s.setPending es) hk
  · rfl

/-- A refusal depends on the access and BASE alone (R45). -/
theorem perform_refused_congr {e : HostEvent} {s t : State} {r : Refusal} (h : perform e s = .refused r)
    (hcfg : t.cfg = s.cfg) : perform e t = .refused r := by
  cases e with
  | read addr width =>
    cases hs : acceptedSlot s.cfg addr width with
    | error r' =>
      rw [perform_read_of_error hs] at h
      cases h
      exact perform_read_of_error (hcfg ▸ hs)
    | ok sl =>
      rw [perform_read_of_ok hs] at h
      cases h
  | write addr width w =>
    cases hs : acceptedSlot s.cfg addr width with
    | error r' =>
      rw [perform_write_of_error hs] at h
      cases h
      exact perform_write_of_error (hcfg ▸ hs) w
    | ok sl =>
      obtain ⟨u, hu⟩ := exists_writeSlot_eq_next w s sl
      rw [perform_write_of_ok hs, hu] at h
      cases h
  | reset => cases h

/-- Settles O5, by induction over the events: a step takes the oldest one, which does the same whatever else is
pending. -/
theorem accessesArePerformedOneByOneInProgramOrder : Obligations.AccessesArePerformedOneByOneInProgramOrder := by
  intro es rest s
  induction es generalizing s with
  | nil => rfl
  | cons e es ih =>
    have hstep : step (s.setPending (e :: es ++ rest)) = perform e (s.setPending (es ++ rest)) := step_of_pending rfl
    cases he : perform e s with
    | next t =>
      rw [perform_setPending_of_next he] at hstep
      rw [performAll_cons_of_next (perform_setPending_of_next he rest), ← ih t]
      exact run_succ_of_next hstep
    | fault f => exact nomatch f
    | refused r =>
      rw [perform_refused_congr he (setPending_cfg s (es ++ rest))] at hstep
      rw [performAll_cons_of_refused (perform_refused_congr he (setPending_cfg s rest))]
      exact run_succ_of_refused hstep

/-! ### Reads and commands repeated -/

theorem perform_read_keeps {addr width : Nat} {s t : State} (h : perform (.read addr width) s = .next t) :
    t = { s with readout := t.readout } := by
  cases eventEffect_of_perform h
  rfl

theorem performAll_reads_keeps {es : List HostEvent} (hes : ∀ e ∈ es, ∃ b, e = .read b 4) {s t : State}
    (h : performAll es s = .next t) : t = { s with readout := t.readout } := by
  induction es generalizing s with
  | nil => cases h; rfl
  | cons e es ih =>
    obtain ⟨⟨b, rfl⟩, htail⟩ := List.forall_mem_cons.mp hes
    obtain ⟨m, hm, ht⟩ := performAll_cons_eq_next_iff.mp h
    have hkeep := ih htail ht
    rw [perform_read_keeps hm] at hkeep
    exact hkeep

/-- A read overwrites what was read before, and does not look at it (R43). -/
theorem perform_read_with_readout (addr width : Nat) (s : State) (v : Option Word) :
    perform (.read addr width) { s with readout := v } = perform (.read addr width) s := by
  cases hs : acceptedSlot s.cfg addr width with
  | error r => rw [perform_read_of_error hs, perform_read_of_error (s := { s with readout := v }) hs]
  | ok sl =>
    rw [perform_read_of_ok hs, perform_read_of_ok (s := { s with readout := v }) hs,
      readSlot_with_hostFields s s.pending v]
    rfl

/-- A read repeated after other reads leaves what it left the first time: the reads between changed the readout
alone. -/
theorem perform_read_again {addr width : Nat} {es : List HostEvent} {s t u : State}
    (hes : ∀ e ∈ es, ∃ b, e = .read b 4) (ht : perform (.read addr width) s = .next t)
    (hu : performAll es t = .next u) : perform (.read addr width) u = .next t := by
  have hus : u = { s with readout := u.readout } := by
    have hut := performAll_reads_keeps hes hu
    rwa [perform_read_keeps ht] at hut
  rw [hus, perform_read_with_readout, ht]

theorem execAll_twice_ne {i : Instr} {s t u : State} (ht : exec i s = .next t) (hu : exec i t = .next u)
    (hne : u.crc ≠ t.crc) : execAll [i, i] s ≠ execAll [i] s := by
  rw [execAll_cons_of_next ht, execAll_cons_of_next ht, execAll_cons_of_next hu]
  intro h
  cases h
  exact hne rfl

/-- Settles O6: the repeated read leaves the state of the first one. CRC_BYTE and CRC_WORD of 0, done twice from reset,
show the rest. -/
theorem readsAreIdempotentAndCommandsAreNot : Obligations.ReadsAreIdempotentAndCommandsAreNot := by
  refine ⟨fun s t u v a es hes ht hu hv => ?_, fun s t k w h0 hk ht => ?_, ⟨State.reset, 0#8, ?_⟩,
    ⟨State.reset, 0#16, ?_⟩⟩
  · cases (perform_read_again hes ht hu).symm.trans hv
    exact ⟨rfl, perform_read_keeps ht⟩
  · cases (perform_ignoredWrite s h0 hk w).symm.trans ht
    rfl
  · exact execAll_twice_ne (CommandEffect.crcByte _).exec (CommandEffect.crcByte _).exec (by decide +kernel)
  · exact execAll_twice_ne (CommandEffect.crcWord _).exec (CommandEffect.crcWord _).exec (by decide +kernel)

end Sys2Proof.Machine

/-! PROOFS, family 30_encoding: words, instructions and the assembler (spec 30_encoding.md R55 to R66, R90). A word is its
four fields packed (`packWord_fields`), so a mask acts field by field. Encoding the decoded instruction keeps just the bits
its row reads (`encode_decodeWord`), and with the round trip this settles what the other bits can do. -/

namespace Sys2Proof

/-! ### The round trip -/

theorem decodeWord_encode {i : Instr} (h : i.WellFormed) : decodeWord (encode i) = i := by
  cases i with
  | nop => exact decodeWord_nop Laws.EncodesItsOpcode.nop
  | crcInit => exact decodeWord_crcInit Laws.EncodesItsOpcode.crcInit
  | crcByte l => rw [decodeWord_crcByte (Laws.EncodesItsOpcode.crcByte l), encode, lField_packWord]
  | crcWord d => rw [decodeWord_crcWord (Laws.EncodesItsOpcode.crcWord d), encode, dField_packWord]
  | crcCheck c => rw [decodeWord_crcCheck (Laws.EncodesItsOpcode.crcCheck c), encode, cField_packWord]
  | scale f d => rw [decodeWord_scale (Laws.EncodesItsOpcode.scale f d), encode, fField_packWord, dField_packWord]
  | field f c d =>
    rw [decodeWord_field (Laws.EncodesItsOpcode.field f c d), encode, fField_packWord, cField_packWord,
      dField_packWord]
  | clear => exact decodeWord_clear Laws.EncodesItsOpcode.clear
  | reserved op =>
    have hop : opField (encode (.reserved op)) = op := Laws.EncodesItsOpcode.reserved op
    have hge : 8 ≤ (opField (encode (.reserved op))).toNat := by rw [hop]; exact (wellFormed_reserved op).mp h
    rw [decodeWord_reserved hge, hop]

/-- Settles O11, constructor by constructor, from the fields of a packed word. -/
theorem decodingAnEncodedInstructionGivesItBack : Obligations.DecodingAnEncodedInstructionGivesItBack :=
  fun _ => decodeWord_encode

/-- Settles O10: each word names its command by its opcode. -/
theorem wordsOfTheSpecDecodeToTheirCommands : Obligations.WordsOfTheSpecDecodeToTheirCommands :=
  ⟨decodeWord_nop rfl, decodeWord_crcInit rfl, decodeWord_crcByte rfl, decodeWord_crcWord rfl, decodeWord_crcCheck rfl,
    decodeWord_scale rfl, decodeWord_field rfl, decodeWord_clear rfl, decodeWord_reserved (by decide)⟩

/-! ### A word is its four fields -/

theorem packWord_fields (w : Word) : packWord (opField w) (fField w) (cField w) (dField w) = w := by
  have hopf : opField w ++ fField w = w.extractLsb' 24 8 := BitVec.extractLsb'_append_extractLsb'_eq_extractLsb' rfl
  have hopfc : w.extractLsb' 24 8 ++ cField w = w.extractLsb' 16 16 :=
    BitVec.extractLsb'_append_extractLsb'_eq_extractLsb' rfl
  rw [packWord, hopf, hopfc]
  exact BitVec.extractLsb'_append_extractLsb'

@[simp] theorem opField_and (v w : Word) : opField (v &&& w) = opField v &&& opField w := BitVec.extractLsb'_and
@[simp] theorem fField_and (v w : Word) : fField (v &&& w) = fField v &&& fField w := BitVec.extractLsb'_and
@[simp] theorem cField_and (v w : Word) : cField (v &&& w) = cField v &&& cField w := BitVec.extractLsb'_and
@[simp] theorem dField_and (v w : Word) : dField (v &&& w) = dField v &&& dField w := BitVec.extractLsb'_and

/-- A mask given field by field acts field by field. -/
theorem and_packWord (w : Word) (op f : BitVec 4) (c : Byte) (d : Half) :
    w &&& packWord op f c d = packWord (opField w &&& op) (fField w &&& f) (cField w &&& c) (dField w &&& d) := by
  rw [← packWord_fields (w &&& packWord op f c d)]
  simp

/-- With `H` masked off, `L` is left (R56). -/
theorem dField_and_lowByteMask (w : Word) : dField w &&& (0#8 ++ BitVec.allOnes 8 : Half) = 0#8 ++ lField w := by
  rw [dField_eq_append, BitVec.and_append, BitVec.and_zero, BitVec.and_allOnes]
  rfl

end Sys2Proof

namespace Sys2Proof.Machine

/-! ### The bits a command reads -/

theorem readMask_of_reserved {op : BitVec 4} (h : 8 ≤ op.toNat) : readMask op = packWord 15#4 0#4 0#8 0#16 := by
  revert op; decide

/-- Every row reads the whole opcode; `f`, `c` and `d` are the other fields of its mask. -/
theorem and_readMask {w : Word} {f : BitVec 4} {c : Byte} {d : Half}
    (h : readMask (opField w) = packWord (BitVec.allOnes 4) f c d) :
    w &&& readMask (opField w) = packWord (opField w) (fField w &&& f) (cField w &&& c) (dField w &&& d) := by
  rw [h, and_packWord, BitVec.and_allOnes]

namespace DecodesTo
variable {w : Word} {i : Instr}

theorem wellFormed (hd : DecodesTo w i) : i.WellFormed := by
  cases hd with
  | nop | crcInit | crcByte | crcWord | crcCheck | scale | field | clear => rfl
  | reserved h => exact (wellFormed_reserved _).mpr h

theorem encode_eq (hd : DecodesTo w i) : encode i = w &&& readMask (opField w) := by
  cases hd with
  | nop h | crcInit h | clear h =>
    rw [and_readMask (f := 0#4) (c := 0#8) (d := 0#16) (by rw [h]; rfl), h]
    simp [encode]
  | crcByte h =>
    rw [and_readMask (f := 0#4) (c := 0#8) (d := 0#8 ++ BitVec.allOnes 8) (by rw [h]; rfl), h, dField_and_lowByteMask]
    simp [encode]
  | crcWord h =>
    rw [and_readMask (f := 0#4) (c := 0#8) (d := BitVec.allOnes 16) (by rw [h]; rfl), h]
    simp [encode, -BitVec.reduceAllOnes]
  | crcCheck h =>
    rw [and_readMask (f := 0#4) (c := BitVec.allOnes 8) (d := 0#16) (by rw [h]; rfl), h]
    simp [encode, -BitVec.reduceAllOnes]
  | scale h =>
    rw [and_readMask (f := BitVec.allOnes 4) (c := 0#8) (d := BitVec.allOnes 16) (by rw [h]; rfl), h]
    simp [encode, -BitVec.reduceAllOnes]
  | field h =>
    rw [and_readMask (f := BitVec.allOnes 4) (c := BitVec.allOnes 8) (d := BitVec.allOnes 16) (by rw [h]; rfl), h]
    simp [encode, -BitVec.reduceAllOnes]
  | reserved h =>
    rw [and_readMask (readMask_of_reserved h)]
    simp [encode]

end DecodesTo

theorem encode_decodeWord (w : Word) : encode (decodeWord w) = w &&& readMask (opField w) :=
  (decodesTo_decodeWord w).encode_eq

/-- Settles O12, opcode by opcode, from the masks of the four fields. -/
theorem everyWordDecodesAndEncodesToItsCanonicalWord : Obligations.EveryWordDecodesAndEncodesToItsCanonicalWord :=
  fun w => ⟨(decodesTo_decodeWord w).wellFormed, encode_decodeWord w⟩

/-! ### The bits a command does not read -/

theorem decodeWord_and_readMask (w : Word) : decodeWord (w &&& readMask (opField w)) = decodeWord w := by
  rw [← encode_decodeWord, decodeWord_encode (decodesTo_decodeWord w).wellFormed]

/-- Settles O14: masking changes no command, and a legal opcode without a field index raises no ILL. -/
theorem unusedFieldsAreIgnored : Obligations.UnusedFieldsAreIgnored := by
  refine ⟨fun w s => congrArg (exec · s) (decodeWord_and_readMask w).symm, fun w s t h5 h6 hlegal ht hill => ?_⟩
  have hd := decodesTo_decodeWord w
  have heff := exec_eq_next_iff.mp ht
  by_cases hc : decodeWord w = .clear
  · rw [hc] at heff
    rw [heff.eq_cleared] at hill
    exact absurd hill Bool.false_ne_true
  · have hraise : raisesIll (decodeWord w) = false := by
      rw [Bool.eq_false_iff, ne_eq, ← hd.reservedWord_iff]
      rintro (h8 | ⟨h | h, -⟩)
      exacts [absurd h8 (by omega), h5 h, h6 h]
    rw [heff.ill_eq hc, hraise, Bool.or_false] at hill
    exact hill

/-- The mask of every row but SCALE's and FIELD's leaves F out (R58). -/
theorem readMask_ignores_f {op : BitVec 4} (h5 : op ≠ 5#4) (h6 : op ≠ 6#4) :
    0xF0FFFFFF#32 &&& readMask op = readMask op := by
  revert op; decide

theorem opField_and_clearF (w : Word) : opField (w &&& 0xF0FFFFFF#32) = opField w := by
  rw [opField_and]
  exact BitVec.and_allOnes

theorem decodeWord_and_clearF {w : Word} (h5 : opField w ≠ 5#4) (h6 : opField w ≠ 6#4) :
    decodeWord (w &&& 0xF0FFFFFF#32) = decodeWord w := by
  rw [← decodeWord_and_readMask, opField_and_clearF, BitVec.and_assoc, readMask_ignores_f h5 h6, decodeWord_and_readMask]

/-- Settles O32: a reserved word decodes to a command that raises ILL, and F is in the mask of SCALE and FIELD only. -/
theorem reservedWordsRaiseIllAndChangeNothingElse : Obligations.ReservedWordsRaiseIllAndChangeNothingElse := by
  refine ⟨fun w s hw => ?_, fun op s => (CommandEffect.reserved op).exec,
    fun w s h5 h6 => congrArg (exec · s) (decodeWord_and_clearF h5 h6).symm⟩
  obtain ⟨t, h⟩ := exists_commandEffect (decodeWord w) s
  rw [h.exec, h.eq_raiseIll ((decodesTo_decodeWord w).reservedWord_iff.mp hw), raiseIll_eq]

/-! ### The command function -/

theorem fieldIndex?_of_val_eq {f : BitVec 4} {k : FieldIndex} (h : k.val = f.toNat) : fieldIndex? f = some k := by
  rw [fieldIndex?_eq_some, h, BitVec.ofNat_toNat, BitVec.setWidth_eq]

/-- Settles O13, opcode by opcode. -/
theorem theOpcodeAndFieldsOfAWordPickItsEffect : Obligations.TheOpcodeAndFieldsOfAWordPickItsEffect := by
  intro w s
  simp only [← dField_eq_append]
  refine ⟨fun h => ?_, fun h => ?_, fun h => ?_, fun h => ?_, fun h => ?_, fun h hf => ?_, fun h k hk => ?_,
    fun h hf => ?_, fun h k hk => ?_, fun h => ?_, fun h => ?_⟩
  · rw [decodeWord_nop h]; rfl
  · rw [decodeWord_crcInit h]; rfl
  · rw [decodeWord_crcByte h]; rfl
  · rw [decodeWord_crcWord h]; rfl
  · rw [decodeWord_crcCheck h]; rfl
  · rw [decodeWord_scale h]; exact execScale_reserved (fieldIndex?_eq_none.mpr hf) _ s
  · rw [decodeWord_scale h]; exact execScale_legal (fieldIndex?_of_val_eq hk) _ s
  · rw [decodeWord_field h]; exact execField_reserved (fieldIndex?_eq_none.mpr hf) _ _ s
  · rw [decodeWord_field h]; exact execField_legal (fieldIndex?_of_val_eq hk) _ _ s
  · rw [decodeWord_clear h]; rfl
  · rw [decodeWord_reserved h]; rfl

/-! ### Operands of the assembler -/

theorem operand_of_lt {n v : Nat} (h : v < 2 ^ n) : operand n v = .ok (BitVec.ofNat n v) := if_pos h

theorem operand_of_le {n v : Nat} (h : 2 ^ n ≤ v) : operand n v = .error .operandOutOfRange :=
  if_neg (Nat.not_lt.mpr h)

@[simp] theorem operand_toNat {n : Nat} (b : BitVec n) : operand n b.toNat = .ok b := by
  rw [operand_of_lt b.isLt, BitVec.ofNat_toNat, BitVec.setWidth_eq]

theorem indexOperand_of_le {n : Nat} (h : n ≤ 8) : indexOperand (.number n) = .ok (BitVec.ofNat 4 n) := if_pos h

theorem indexOperand_of_lt {n : Nat} (h : 8 < n) : indexOperand (.number n) = .error .fieldIndexAbove8 :=
  if_neg (Nat.not_le.mpr h)

/-- A field name stands for its index (R64). -/
theorem indexOperand_name (f : FieldName) : indexOperand (.name f) = indexOperand (.number f.index.val) :=
  (indexOperand_of_le (Nat.le_of_lt_succ f.index.isLt)).symm

/-! The assembler goes on after an operand it accepts, and stops at the first it refuses. -/

@[simp] theorem ok_bind {ε α β : Type} (a : α) (f : α → Except ε β) : (Except.ok a >>= f) = f a := rfl

@[simp] theorem error_bind {ε α β : Type} (e : ε) (f : α → Except ε β) : (Except.error e >>= f) = .error e := rfl

/-! ### The words of the assembler's table -/

/-- A packed word as the table writes it, each field shifted to its place (R56, R64). -/
theorem packWord_eq_or (op f : BitVec 4) (c : Byte) (d : Half) :
    packWord op f c d =
      op.setWidth 32 <<< 28 ||| f.setWidth 32 <<< 24 ||| c.setWidth 32 <<< 16 ||| d.setWidth 32 :=
  (BitVec.setWidth_eq _).symm.trans BitVec.setWidth_append_append_append_eq_shiftLeft_setWidth_or

theorem encode_crcByte_ofNat {b : Nat} (h : b < 256) :
    encode (.crcByte (BitVec.ofNat 8 b)) = 0x20000000#32 ||| BitVec.ofNat 32 b := by
  rw [encode, packWord_eq_or, BitVec.setWidth_append_eq_shiftLeft_setWidth_or]
  simp [BitVec.setWidth_ofNat_of_le_of_lt, h]

theorem encode_crcWord_ofNat {d : Nat} (h : d < 65536) :
    encode (.crcWord (BitVec.ofNat 16 d)) = 0x30000000#32 ||| BitVec.ofNat 32 d := by
  rw [encode, packWord_eq_or]
  simp [BitVec.setWidth_ofNat_of_le_of_lt, h]

theorem encode_crcCheck_ofNat {c : Nat} (h : c < 256) :
    encode (.crcCheck (BitVec.ofNat 8 c)) = 0x40000000#32 ||| BitVec.ofNat 32 c <<< 16 := by
  rw [encode, packWord_eq_or]
  simp [BitVec.setWidth_ofNat_of_le_of_lt, h]

theorem encode_scale_ofNat {f d : Nat} (hf : f ≤ 8) (hd : d < 65536) :
    encode (.scale (BitVec.ofNat 4 f) (BitVec.ofNat 16 d)) =
      0x50000000#32 ||| BitVec.ofNat 32 f <<< 24 ||| BitVec.ofNat 32 d := by
  rw [encode, packWord_eq_or]
  simp [BitVec.setWidth_ofNat_of_le_of_lt, hd, show f < 16 by omega]

theorem encode_field_ofNat {f d c : Nat} (hf : f ≤ 8) (hd : d < 65536) (hc : c < 256) :
    encode (.field (BitVec.ofNat 4 f) (BitVec.ofNat 8 c) (BitVec.ofNat 16 d)) =
      0x60000000#32 ||| BitVec.ofNat 32 f <<< 24 ||| BitVec.ofNat 32 c <<< 16 ||| BitVec.ofNat 32 d := by
  rw [encode, packWord_eq_or]
  simp [BitVec.setWidth_ofNat_of_le_of_lt, hd, hc, show f < 16 by omega]

/-! ### What the assembler does with a line of the table -/

section line
variable {f d c : Nat}

theorem assemble_crcByte {b : Nat} (h : b < 256) :
    assemble (.crcByte b) = .ok [0x20000000#32 ||| BitVec.ofNat 32 b] := by
  simp [assemble, expand, operand_of_lt (n := 8) h, encode_crcByte_ofNat h]

theorem assemble_crcByte_error {b : Nat} (h : 256 ≤ b) : assemble (.crcByte b) = .error .operandOutOfRange := by
  simp [assemble, expand, operand_of_le (n := 8) h]

theorem assemble_crcWord (h : d < 65536) : assemble (.crcWord d) = .ok [0x30000000#32 ||| BitVec.ofNat 32 d] := by
  simp [assemble, expand, operand_of_lt (n := 16) h, encode_crcWord_ofNat h]

theorem assemble_crcWord_error (h : 65536 ≤ d) : assemble (.crcWord d) = .error .operandOutOfRange := by
  simp [assemble, expand, operand_of_le (n := 16) h]

theorem assemble_crcCheck (h : c < 256) :
    assemble (.crcCheck c) = .ok [0x40000000#32 ||| BitVec.ofNat 32 c <<< 16] := by
  simp [assemble, expand, operand_of_lt (n := 8) h, encode_crcCheck_ofNat h]

theorem assemble_crcCheck_error (h : 256 ≤ c) : assemble (.crcCheck c) = .error .operandOutOfRange := by
  simp [assemble, expand, operand_of_le (n := 8) h]

theorem assemble_scale (hf : f ≤ 8) (hd : d < 65536) :
    assemble (.scale (.number f) d) = .ok [0x50000000#32 ||| BitVec.ofNat 32 f <<< 24 ||| BitVec.ofNat 32 d] := by
  simp [assemble, expand, indexOperand_of_le hf, operand_of_lt (n := 16) hd, encode_scale_ofNat hf hd]

theorem assemble_scale_index_error (hf : 8 < f) : assemble (.scale (.number f) d) = .error .fieldIndexAbove8 := by
  simp [assemble, expand, indexOperand_of_lt hf]

theorem assemble_scale_error (hf : f ≤ 8) (hd : 65536 ≤ d) :
    assemble (.scale (.number f) d) = .error .operandOutOfRange := by
  simp [assemble, expand, indexOperand_of_le hf, operand_of_le (n := 16) hd]

theorem assemble_field (hf : f ≤ 8) (hd : d < 65536) (hc : c < 256) :
    assemble (.field (.number f) d c) =
      .ok [0x60000000#32 ||| BitVec.ofNat 32 f <<< 24 ||| BitVec.ofNat 32 c <<< 16 ||| BitVec.ofNat 32 d] := by
  simp [assemble, expand, indexOperand_of_le hf, operand_of_lt (n := 16) hd, operand_of_lt (n := 8) hc,
    encode_field_ofNat hf hd hc]

theorem assemble_field_index_error (hf : 8 < f) : assemble (.field (.number f) d c) = .error .fieldIndexAbove8 := by
  simp [assemble, expand, indexOperand_of_lt hf]

theorem assemble_field_error (hf : f ≤ 8) (hdc : 65536 ≤ d ∨ 256 ≤ c) :
    assemble (.field (.number f) d c) = .error .operandOutOfRange := by
  rcases Nat.lt_or_ge c 256 with hc | hc
  · have hd : 65536 ≤ d := by omega
    simp [assemble, expand, indexOperand_of_le hf, operand_of_lt (n := 8) hc, operand_of_le (n := 16) hd]
  · simp [assemble, expand, indexOperand_of_le hf, operand_of_le (n := 8) hc]

theorem assemble_rawWord {w : Nat} (h : w < 2 ^ 32) : assemble (.rawWord w) = .ok [BitVec.ofNat 32 w] := by
  simp [assemble, operand_of_lt h]

theorem assemble_rawWord_error {w : Nat} (h : 2 ^ 32 ≤ w) : assemble (.rawWord w) = .error .operandOutOfRange := by
  simp [assemble, operand_of_le h]

end line

/-- Settles O15, line by line of the table. -/
theorem assemblerEmitsTheWordsOfTheSyntaxTable : Obligations.AssemblerEmitsTheWordsOfTheSyntaxTable := by
  refine ⟨rfl, rfl, rfl, fun b => ⟨assemble_crcByte, assemble_crcByte_error⟩,
    fun d => ⟨assemble_crcWord, assemble_crcWord_error⟩, fun c => ⟨assemble_crcCheck, assemble_crcCheck_error⟩,
    fun f d => ⟨assemble_scale, assemble_scale_index_error, assemble_scale_error⟩,
    fun f d c => ⟨assemble_field, assemble_field_index_error, assemble_field_error⟩, fun n d c => ⟨?_, ?_⟩, rfl,
    fun w => ⟨assemble_rawWord, assemble_rawWord_error⟩⟩
  · simp only [assemble, expand, indexOperand_name]
  · simp only [assemble, expand, indexOperand_name]

/-! ### The pseudo-instructions -/

theorem byteCommands_toNat (bs : List Byte) : byteCommands (bs.map BitVec.toNat) = .ok (bs.map .crcByte) := by
  induction bs with
  | nil => rfl
  | cons b bs ih => simp [byteCommands, ih]

theorem fieldCommands_toNat (fields : List (Half × Byte)) (k : Nat) (hk : k + fields.length ≤ 9) :
    fieldCommands k (fields.map fun p => (p.1.toNat, p.2.toNat)) = .ok ((fields.zipIdx k).map fieldCommandOf) := by
  induction fields generalizing k with
  | nil => rfl
  | cons p fields ih =>
    rw [List.length_cons] at hk
    have hindex : indexOperand (.number k) = .ok (BitVec.ofNat 4 k) := indexOperand_of_le (by omega)
    simp [fieldCommands, hindex, ih (k + 1) (by omega), fieldCommandOf]

theorem expand_chkFrame_toNat {fields : List (Half × Byte)} (h : fields.length = 9) :
    expand (.chkFrame (fields.map fun p => (p.1.toNat, p.2.toNat))) = .ok (frameCommands fields) := by
  simp [expand, h, fieldCommands_toNat fields 0 (by omega), frameCommands_eq]

/-- Settles O16: the bytes and the pairs by induction, the index counting up over the pairs. -/
theorem pseudoInstructionsExpandAsTheSpecSays : Obligations.PseudoInstructionsExpandAsTheSpecSays := by
  refine ⟨byteCommands_toNat, fun bs => ?_, fun h l c => ?_, fun fields hlen => expand_chkFrame_toNat hlen⟩
  · simp [expand, byteCommands_toNat]
  · simp [expand]

end Sys2Proof.Machine

/-! PROOFS, family 40_crc: the CRC-8 algorithm and its commands (spec 40_crc.md R67 to R74). `crc_step` is a division,
round by round, by the polynomial 0x131 (`shiftLeft_eq_carrylessMul_xor_crcRounds`), and it loses nothing of either of
its bytes, so a compare sees every change of one byte and each checksum is equally frequent. -/

namespace Sys2Proof.Machine

/-! ### The polynomial division -/

/-- The product is linear in the multiplier: at each bit, the two sums take the multiples of the polynomial that they
take together. -/
theorem carrylessMul_xor (q r : Byte) (p : BitVec 16) :
    carrylessMul (q ^^^ r) p = carrylessMul q p ^^^ carrylessMul r p := by
  refine List.foldl_hom₂ (List.range 8) (· ^^^ ·) _ _ _ 0#16 0#16 fun x y k => ?_
  rw [BitVec.getLsbD_xor]
  cases q.getLsbD k <;> cases r.getLsbD k
  · rfl
  · exact (BitVec.xor_assoc ..).symm
  · change x ^^^ p <<< k ^^^ y = x ^^^ y ^^^ p <<< k
    ac_rfl
  · change x ^^^ p <<< k ^^^ (y ^^^ p <<< k) = x ^^^ y
    rw [BitVec.xor_comm y, BitVec.xor_assoc, ← BitVec.xor_assoc _ _ y, BitVec.xor_self, BitVec.zero_xor]

theorem carrylessMul_twoPow {n : Nat} (h : n < 8) : carrylessMul (BitVec.twoPow 8 n) 0x131#16 = 0x131#16 <<< n := by
  revert n; decide

/-- A round is one step of the division: what it shifts out is the polynomial's multiple that it takes away (R67). -/
theorem shiftLeft_one_eq_crcRound (x : Byte) :
    x.setWidth 16 <<< 1 = (if x.msb then 0x131#16 else 0#16) ^^^ (crcRound x).setWidth 16 := by
  revert x; decide

/-- `n` rounds leave a remainder of the byte shifted left by `n`: the quotient has one bit per round. -/
theorem shiftLeft_eq_carrylessMul_xor_crcRounds {n : Nat} (hn : n ≤ 8) (x : Byte) :
    ∃ q : Byte, x.setWidth 16 <<< n = carrylessMul q 0x131#16 ^^^ (crcRounds n x).setWidth 16 := by
  induction n generalizing x with
  | zero => exact ⟨0#8, by simp [crcRounds, show carrylessMul 0#8 0x131#16 = 0#16 by decide]⟩
  | succ n ih =>
    obtain ⟨q, hq⟩ := ih (by omega) (crcRound x)
    have hx : x.setWidth 16 <<< (n + 1) =
        (if x.msb then 0x131#16 else 0#16) <<< n ^^^ (carrylessMul q 0x131#16 ^^^ (crcRounds (n + 1) x).setWidth 16) := by
      rw [Nat.add_comm, BitVec.shiftLeft_add, shiftLeft_one_eq_crcRound, BitVec.shiftLeft_xor_distrib, hq,
        Nat.add_comm, crcRounds]
    cases hm : x.msb
    · exact ⟨q, by simpa [hm] using hx⟩
    · refine ⟨BitVec.twoPow 8 n ^^^ q, ?_⟩
      rw [hx, hm, if_pos rfl, carrylessMul_xor, carrylessMul_twoPow (by omega), BitVec.xor_assoc]

/-- Settles O17: `crc_step` is eight rounds of the division. -/
theorem crcStepIsTheRemainderByThePolynomial : Obligations.CrcStepIsTheRemainderByThePolynomial :=
  fun a b => shiftLeft_eq_carrylessMul_xor_crcRounds (Nat.le_refl 8) (a ^^^ b)

/-! ### Byte sequences -/

theorem crcBytes_append (a : Byte) (xs ys : List Byte) : crcBytes a (xs ++ ys) = crcBytes (crcBytes a xs) ys := by
  induction xs generalizing a with
  | nil => rfl
  | cons x xs ih => exact ih (crcStep a x)

/-- A run of CRC_BYTE folds its bytes into CRC and changes nothing else (R71). -/
theorem execAll_crcByte (bs : List Byte) (s : State) :
    execAll (bs.map .crcByte) s = .next (s.setCrc (crcBytes s.crc bs)) := by
  induction bs generalizing s with
  | nil => rfl
  | cons b bs ih => exact (execAll_cons_of_next (CommandEffect.crcByte b).exec).trans (ih _)

/-- Settles O18: both parts on runs are the run of CRC_BYTE, the second from the state CRC_INIT leaves. -/
theorem crcByteRunsFoldTheSequenceInOrder : Obligations.CrcByteRunsFoldTheSequenceInOrder :=
  ⟨crcBytes_append, execAll_crcByte,
    fun bs _ => (execAll_cons_of_next CommandEffect.crcInit.exec).trans (execAll_crcByte bs _)⟩

/-! ### The commands -/

/-- The accumulator's own value takes it to 0 (R71). -/
@[simp] theorem crcStep_self (a : Byte) : crcStep a a = 0#8 := by
  rw [crcStep_eq, BitVec.xor_self]
  decide

/-- Settles O20: CRC_BYTE's effect is `crcStep`; its corner cases are values of it. -/
theorem crcByteFoldsItsByte : Obligations.CrcByteFoldsItsByte := by
  have heffect (l : Byte) (s : State) : exec (.crcByte l) s = .next { s with crc := crcStep s.crc l } :=
    (CommandEffect.crcByte l).exec
  have hseed : crcStep 0xFF#8 0x00#8 = 0xAC#8 ∧ crcStep 0xFF#8 0xBE#8 = 0x0C#8 := by decide +kernel
  refine ⟨fun w h => decodeWord_crcByte h, heffect, fun s => ?_, fun s hs => ⟨?_, ?_, ?_⟩, fun bs s hs => ?_,
    decodeWord_crcByte rfl⟩
  · rw [heffect, crcStep_self]
  · rw [heffect, hs, crcStep_self]
  · rw [heffect, hs, hseed.1]
  · rw [heffect, hs, hseed.2]
  · rw [← hs]; exact execAll_crcByte bs s

/-- Settles O19: CRC_INIT writes the seed; with the seed already there, that is the same state. -/
theorem crcInitRestartsTheChecksum : Obligations.CrcInitRestartsTheChecksum := by
  have heffect (s : State) : exec .crcInit s = .next { s with crc := 0xFF#8 } := CommandEffect.crcInit.exec
  exact ⟨fun w h => decodeWord_crcInit h, rfl, heffect, fun s hs => by rw [heffect, ← hs]⟩

theorem crcWord_append (a h l : Byte) : crcWord a (h ++ l) = crcStep (crcStep a h) l := by
  rw [crcWord, highByte_append, lowByte_append]

/-- Settles O21: CRC_WORD is the run of CRC_BYTE over the two bytes of D. -/
theorem crcWordFoldsHighByteThenLowByte : Obligations.CrcWordFoldsHighByteThenLowByte := by
  refine ⟨fun w h => ?_, fun d s => (CommandEffect.crcWord d).exec, fun h l s => ?_, by decide +kernel⟩
  · rw [decodeWord_crcWord h, dField_eq_append]
  · have hrun : execAll [.crcByte h, .crcByte l] s = .next (s.setCrc (crcStep (crcStep s.crc h) l)) :=
      execAll_crcByte [h, l] s
    rw [hrun, ← crcWord_append]
    exact (CommandEffect.crcWord _).exec

/-- Settles O22: CRC_CHECK records the compare in MATCH and ERR. -/
theorem crcCheckComparesTheAccumulator : Obligations.CrcCheckComparesTheAccumulator := by
  have heffect (c : Byte) (s : State) : exec (.crcCheck c) s = .next (s.compared (s.crc == c)) :=
    (CommandEffect.crcCheck c).exec
  refine ⟨fun w h => decodeWord_crcCheck h, fun c s h => ?_, fun c s h => ?_⟩
  · rw [heffect, compared_eq, beq_iff_eq.mpr h, Bool.not_true, Bool.or_false]
  · rw [heffect, compared_eq, beq_eq_false_iff_ne.mpr h, Bool.not_false, Bool.or_true]

/-! ### How often a checksum occurs, and what a compare detects -/

theorem highByte_append_lowByte (d : Half) : highByte d ++ lowByte d = d :=
  BitVec.extractLsb'_append_extractLsb'

/-- Some byte takes an accumulator to any value: `crc_step` loses nothing of its byte, and there are finitely many. -/
theorem exists_crcStep_eq (a c : Byte) : ∃ l, crcStep a l = c := by
  have : Finite Byte := Finite.of_injective _ BitVec.toFin_injective
  exact Finite.surjective_of_injective (fun _ _ => crcStep_right_injective) c

/-- A field value is determined by its high byte and its checksum. -/
theorem eq_of_highByte_eq_of_crcWord_eq {a : Byte} {d e : Half} (hh : highByte d = highByte e)
    (hc : crcWord a d = crcWord a e) : d = e := by
  have hl : lowByte d = lowByte e := by
    rw [crcWord, crcWord, hh] at hc
    exact crcStep_right_injective hc
  rw [← highByte_append_lowByte d, hh, hl, highByte_append_lowByte]

theorem length_filter_range (p : Nat → Bool) (n : Nat) :
    ((List.range n).filter p).length = ((Finset.range n).filter fun k => p k = true).card := by
  rw [← List.toFinset_card_of_nodup (List.nodup_range.filter p), List.toFinset_filter, List.toFinset_range]

/-- Each checksum occurs once for every high byte (R74). -/
theorem length_filter_crcWord_eq (a c : Byte) :
    ((List.range 65536).filter fun n => crcWord a (BitVec.ofNat 16 n) == c).length = 256 := by
  rw [length_filter_range, ← Finset.card_range 256]
  refine Finset.card_nbij (fun n => (highByte (BitVec.ofNat 16 n)).toNat) ?_ ?_ ?_
  · intro n _
    exact Finset.mem_range.mpr (BitVec.isLt _)
  · intro m hm n hn hhigh
    simp only [Finset.coe_filter, Finset.mem_range, beq_iff_eq, Set.mem_ofPred_eq] at hm hn
    have hmn : BitVec.ofNat 16 m = BitVec.ofNat 16 n :=
      eq_of_highByte_eq_of_crcWord_eq (BitVec.eq_of_toNat_eq hhigh) (hm.2.trans hn.2.symm)
    simpa [Nat.mod_eq_of_lt hm.1, Nat.mod_eq_of_lt hn.1] using congrArg BitVec.toNat hmn
  · intro k hk
    have hk : k < 256 := by simpa using hk
    obtain ⟨l, hl⟩ := exists_crcStep_eq (crcStep a (BitVec.ofNat 8 k)) c
    refine ⟨(BitVec.ofNat 8 k ++ l : Half).toNat, ?_, ?_⟩
    · simpa [crcWord_append, hl] using (BitVec.ofNat 8 k ++ l : Half).isLt
    · simp [Nat.mod_eq_of_lt hk]

/-- A change of one byte of a right triple leaves a wrong one (R74). -/
theorem crcWord_ne_of_one_byte_changed {a h l c h' l' c' : Byte} (hc : c = crcWord a (h ++ l))
    (hchange : (h' ≠ h ∧ l' = l ∧ c' = c) ∨ (h' = h ∧ l' ≠ l ∧ c' = c) ∨ (h' = h ∧ l' = l ∧ c' ≠ c)) :
    crcWord a (h' ++ l') ≠ c' := by
  intro heq
  rw [crcWord_append] at hc heq
  rcases hchange with ⟨hne, rfl, rfl⟩ | ⟨rfl, hne, rfl⟩ | ⟨rfl, rfl, hne⟩
  · exact hne (crcStep_right_injective (crcStep_left_injective (heq.trans hc)))
  · exact hne (crcStep_right_injective (heq.trans hc))
  · exact hne (heq.symm.trans hc.symm)

/-- Settles O23: the count by high byte, and a FIELD of a changed triple takes the branch of a mismatch. -/
theorem everySingleByteChangeOfATripleIsDetected : Obligations.EverySingleByteChangeOfATripleIsDetected := by
  refine ⟨length_filter_crcWord_eq 0xFF#8, fun h l c h' l' c' hc hchange => ?_⟩
  have hne : crcWord 0xFF#8 (h' ++ l') ≠ c' := crcWord_ne_of_one_byte_changed hc hchange
  exact ⟨hne, fun f s => ⟨_, (CommandEffect.fieldMismatch (fieldIndex?_ofNat f) hne).exec, rfl, rfl, rfl⟩⟩

end Sys2Proof.Machine

/-! PROOFS, family 41_scale: the truncating division, the raw value of a field, and the commands SCALE and FIELD (spec
41_scale.md R75 to R81). The key fact is that truncation goes toward zero (`tdiv_between_of_nonneg`,
`tdiv_between_of_nonpos`): a quotient of 16-bit values never leaves the 32 bits of QUOT, so QUOT, REM and DIVR are the
numbers of the division themselves. -/

namespace Sys2Proof.Machine

/-! ### The truncating division -/

theorem floor_div_eq_ediv (v : Int) {n : Int} (hn : 0 ≤ n) : ⌊(v : ℚ) / n⌋ = v / n := by
  lift n to ℕ using hn
  exact_mod_cast Rat.floor_intCast_div_natCast v n

theorem mul_tdiv_add_trem (v n : Int) : n * tdiv v n + trem v n = v := add_sub_cancel (n * tdiv v n) v

/-- Settles O24: the floors are those of the model's case split, and the bound and sign are those of the remainder. -/
theorem truncatingDivisionLaws : Obligations.TruncatingDivisionLaws := by
  intro v n hn
  refine ⟨fun hv => ?_, fun hv => ?_, tdiv_eq v n, rfl, mul_tdiv_add_trem v n, trem_eq_zero_or_sign_eq v n,
    abs_trem_lt v hn⟩
  · rw [tdiv, if_pos hv, floor_div_eq_ediv v (by omega)]
  · rw [tdiv, if_neg (by omega), ← Int.cast_neg, floor_div_eq_ediv (-v) (by omega)]

theorem tdiv_neg (v n : Int) : tdiv (-v) n = -tdiv v n := by
  rw [tdiv_eq, tdiv_eq, Int.neg_tdiv]

theorem trem_neg (v n : Int) : trem (-v) n = -trem v n := by
  rw [trem_eq, trem_eq, Int.neg_tmod]

section towardZero
variable {v n : Int}

theorem tdiv_between_of_nonneg (hv : 0 ≤ v) (hn : 0 ≤ n) : 0 ≤ tdiv v n ∧ tdiv v n ≤ v := by
  rw [tdiv_eq]
  exact ⟨Int.tdiv_nonneg hv hn, Int.tdiv_le_self n hv⟩

theorem tdiv_between_of_nonpos (hv : v ≤ 0) (hn : 0 ≤ n) : v ≤ tdiv v n ∧ tdiv v n ≤ 0 := by
  have h := tdiv_between_of_nonneg (v := -v) (by omega) hn
  rw [tdiv_neg] at h
  omega

theorem trem_nonneg (hv : 0 ≤ v) : 0 ≤ trem v n := by
  rw [trem_eq]
  exact Int.tmod_nonneg n hv

theorem trem_nonpos (hv : v ≤ 0) : trem v n ≤ 0 := by
  have h := trem_nonneg (v := -v) (n := n) (by omega)
  rw [trem_neg] at h
  omega

/-- A range about zero holds the quotients of its numbers. -/
theorem tdiv_mem_range {lo hi : Int} (hlo : lo ≤ v) (hhi : v ≤ hi) (hlo0 : lo ≤ 0) (hhi0 : 0 ≤ hi) (hn : 0 ≤ n) :
    lo ≤ tdiv v n ∧ tdiv v n ≤ hi := by
  rcases le_total 0 v with hv | hv
  · have h := tdiv_between_of_nonneg hv hn
    omega
  · have h := tdiv_between_of_nonpos hv hn
    omega

end towardZero

/-! ### The raw value of a field -/

section raw
variable {c : Config} {f : FieldIndex} {d : Half}

theorem raw_of_signed (h : c.isSigned f = true) : raw c f d = d.toInt := by
  rw [raw, if_pos h, BitVec.toInt_eq_toNat_cond]
  split <;> split <;> omega

theorem raw_of_unsigned (h : c.isSigned f = false) : raw c f d = d.toNat := by
  rw [raw, h, if_neg Bool.false_ne_true]

/-- Below 0x8000 the two readings of D agree. -/
theorem raw_of_lt (h : d.toNat < 0x8000) : raw c f d = d.toNat := by
  rw [raw, if_neg (Nat.not_le.mpr h), ite_self]

end raw

/-- Settles O25: both readings, with the range of each. -/
theorem rawValueIsReadBySignedness : Obligations.RawValueIsReadBySignedness := by
  intro c f d
  obtain ⟨hsigned, hunsigned⟩ := raw_range c f d
  exact ⟨fun h => ⟨raw_of_signed h, hsigned h⟩, fun h => ⟨raw_of_unsigned h, hunsigned h⟩⟩

theorem raw_bounds (c : Config) (f : FieldIndex) (d : Half) : -32768 ≤ raw c f d ∧ raw c f d ≤ 65535 := by
  obtain ⟨hsigned, hunsigned⟩ := raw_range c f d
  cases h : c.isSigned f with
  | true => have hs := hsigned h; omega
  | false => have hu := hunsigned h; omega

/-! ### QUOT, REM and DIVR as numbers -/

/-- `trunc_32` drops no bit of a quotient (R81). -/
theorem toInt_quotient (c : Config) (f : FieldIndex) (d : Half) :
    (quotient c f d).toInt = tdiv (raw c f d) (c.divisor f) := by
  obtain ⟨hlo, hhi⟩ := raw_bounds c f d
  have h := tdiv_mem_range (n := c.divisor f) hlo hhi (by decide) (by decide) (by omega)
  exact BitVec.toInt_ofInt_eq_self (by decide) (by omega) (by omega)

/-- `trunc_32` drops no bit of a remainder (R81). -/
theorem toInt_remainder (c : Config) (f : FieldIndex) (d : Half) :
    (remainder c f d).toInt = trem (raw c f d) (c.divisor f) :=
  toInt_ofInt_trem _ (divisor_pos c f) (divisor_le c f)

theorem quotient_mul_divisor_add_remainder (c : Config) (f : FieldIndex) (d : Half) :
    (quotient c f d).toInt * (BitVec.ofNat 16 (c.divisor f)).toNat + (remainder c f d).toInt = raw c f d := by
  rw [toInt_quotient, toInt_remainder, toNat_ofNat_divisor, mul_comm, mul_tdiv_add_trem]

/-- Settles O27: QUOT and REM are the numbers of the truncating division, which goes toward zero. -/
theorem scalerArithmeticLaws : Obligations.ScalerArithmeticLaws := by
  intro c f d
  obtain ⟨hsigned, hunsigned⟩ := raw_range c f d
  have hn : (0 : Int) ≤ c.divisor f := by omega
  have hid := quotient_mul_divisor_add_remainder c f d
  rw [toInt_quotient, toInt_remainder] at hid ⊢
  refine ⟨fun h => ?_, fun h => ?_, abs_trem_lt _ (Int.natCast_pos.mpr (divisor_pos c f)), divisor_le c f,
    divisor_pos c f, rfl, rfl, fun hv => ?_, fun hv => ?_, hid⟩
  · obtain ⟨hlo, hhi⟩ := hunsigned h
    exact tdiv_mem_range hlo hhi (by decide) (by decide) hn
  · obtain ⟨hlo, hhi⟩ := hsigned h
    exact tdiv_mem_range hlo hhi (by decide) (by decide) hn
  · exact ⟨(tdiv_between_of_nonneg hv hn).1, trem_nonneg hv⟩
  · exact ⟨(tdiv_between_of_nonpos hv.le hn).2, trem_nonpos hv.le⟩

/-! ### SCALE -/

theorem exec_scale (f : FieldIndex) (d : Half) (s : State) :
    exec (.scale (BitVec.ofNat 4 f.val) d) s = .next (s.scale f d) :=
  (CommandEffect.scale d (fieldIndex?_ofNat f)).exec

section knownNumbers
variable {c : Config} {f : FieldIndex} {d : Half}

/-- A scaling of known numbers: its raw value and its divisor fix QUOT and REM. -/
theorem scaling_of_eq {v : Int} {n : Nat} (hv : raw c f d = v) (hn : c.divisor f = n) :
    quotient c f d = BitVec.ofInt 32 (tdiv v n) ∧ remainder c f d = BitVec.ofInt 32 (trem v n) := by
  subst hv hn
  exact ⟨rfl, rfl⟩

/-- SCALE of known numbers, on the whole state (R77, R78). -/
theorem exec_scale_of_eq {s : State} {v : Int} {n : Nat} (hv : raw s.cfg f d = v) (hn : s.cfg.divisor f = n) :
    exec (.scale (BitVec.ofNat 4 f.val) d) s = .next { s with
      quot := BitVec.ofInt 32 (tdiv v n), rem := BitVec.ofInt 32 (trem v n), divr := BitVec.ofNat 16 n
      status := { s.status with valid := true, lastf := BitVec.ofNat 4 f.val } } := by
  subst hv hn
  exact exec_scale f d s

/-- A divisor of 1 leaves the raw value and no remainder (R78). -/
theorem scaling_of_divisor_one (hn : c.divisor f = 1) :
    quotient c f d = BitVec.ofInt 32 (raw c f d) ∧ remainder c f d = 0#32 := by
  have h := scaling_of_eq (c := c) (f := f) (d := d) rfl hn
  rwa [tdiv_eq, trem_eq, Nat.cast_one, Int.tdiv_one, Int.tmod_one] at h

/-- A raw value of 0 gives 0 whatever the divisor (R78). -/
theorem scaling_of_zero (c : Config) (f : FieldIndex) : quotient c f 0#16 = 0#32 ∧ remainder c f 0#16 = 0#32 := by
  have h := scaling_of_eq (c := c) (f := f) (d := 0#16) (v := 0) (raw_of_lt (by decide)) rfl
  rwa [tdiv_eq, trem_eq, Int.zero_tdiv, Int.zero_tmod] at h

end knownNumbers

/-- Settles O26: the identity of R81 divided by DIVR; the worked values are SCALE of known numbers. -/
theorem engineeringValueIsExact : Obligations.EngineeringValueIsExact := by
  refine ⟨fun s f d => ⟨_, exec_scale f d s, ?_⟩, fun s f d => ⟨?_, ?_⟩, fun s => ?_⟩
  · have hne : (s.cfg.divisor f : ℚ) ≠ 0 := Nat.cast_ne_zero.mpr (divisor_pos s.cfg f).ne'
    have hid := quotient_mul_divisor_add_remainder s.cfg f d
    rw [toNat_ofNat_divisor] at hid
    have hidQ : ((quotient s.cfg f d).toInt : ℚ) * s.cfg.divisor f + (remainder s.cfg f d).toInt = raw s.cfg f d := by
      exact_mod_cast hid
    simp only [scale_eq, toNat_ofNat_divisor]
    rw [add_div' _ _ _ hne, hidQ]
  · rintro ⟨rfl, hn⟩
    exact exec_scale_of_eq (raw_of_lt (by decide)) hn
  · rintro ⟨rfl, hn⟩
    exact exec_scale_of_eq (raw_of_lt (by decide)) hn
  · exact exec_scale_of_eq (f := 8) (raw_of_lt (by decide)) (Config.divisor_co2 s.cfg)

/-- Settles O28: SCALE's effect is `State.scale`, and each corner case is a scaling of known numbers. -/
theorem scaleDividesTheRawValue : Obligations.ScaleDividesTheRawValue := by
  refine ⟨fun w h => decodeWord_scale h,
    fun f d s hf => (CommandEffect.scaleReserved d (fieldIndex?_eq_none.mpr hf)).exec, exec_scale,
    fun c f d => ⟨divisor_pos c f, scaling_of_divisor_one, ?_, ?_, ?_, ?_, ?_⟩⟩
  · rintro rfl
    exact scaling_of_zero c f
  · rintro rfl hs hn
    exact scaling_of_eq (raw_of_signed hs) hn
  · rintro rfl hs hn
    exact scaling_of_eq (raw_of_signed hs) hn
  · rintro rfl hs hn
    exact scaling_of_eq (raw_of_unsigned hs) hn
  · rintro rfl hn
    exact scaling_of_eq (raw_of_lt (by decide)) hn

/-! ### FIELD -/

/-- Settles O29: the two outcomes of FIELD's compare; after a match, ERR is as it was. -/
theorem fieldChecksThenScales : Obligations.FieldChecksThenScales := by
  refine ⟨by decide +kernel, fun w h => decodeWord_field h,
    fun f c d s hf => (CommandEffect.fieldReserved c d (fieldIndex?_eq_none.mpr hf)).exec, fun f c d s hc => ?_,
    fun f c d s hc => (CommandEffect.fieldMismatch (fieldIndex?_ofNat f) hc).exec⟩
  rw [(CommandEffect.fieldMatch (fieldIndex?_ofNat f) hc).exec, compared_eq, Bool.not_true, Bool.or_false]
  rfl

end Sys2Proof.Machine

/-! PROOFS, family 42_control: the commands NOP and CLEAR (spec 42_control.md R83, R84). -/

namespace Sys2Proof.Machine

/-- A word has opcode 0 exactly up to 0x0FFFFFFF (30_encoding.md R57). -/
theorem opField_eq_zero_iff (w : Word) : opField w = 0#4 ↔ w.toNat ≤ 0x0FFFFFFF := by
  have hw := w.isLt
  rw [opField, BitVec.toNat_eq, BitVec.extractLsb'_toNat, BitVec.toNat_ofNat, Nat.shiftRight_eq_div_pow]
  omega

/-- Settles O30: the words up to 0x0FFFFFFF are those with opcode 0. -/
theorem nopChangesNothing : Obligations.NopChangesNothing :=
  ⟨fun _ h => decodeWord_nop h, fun w h => decodeWord_nop ((opField_eq_zero_iff w).mpr h), rfl,
    fun _ => CommandEffect.nop.exec⟩

/-- A command other than CLEAR leaves a set ERR or ILL set (42_control.md R84). -/
theorem CommandEffect.sticky {s t : State} {i : Instr} (h : CommandEffect s i t) (hi : i ≠ .clear) :
    (s.status.err = true → t.status.err = true) ∧ (s.status.ill = true → t.status.ill = true) := by
  rw [h.err_eq hi, h.ill_eq hi]
  exact ⟨fun hs => by rw [hs, Bool.true_or], fun hs => by rw [hs, Bool.true_or]⟩

/-- The reset values are all that clearing writes, so a state that has them is left as it is. -/
theorem AtResetValues.cleared_eq_self {s : State} (h : AtResetValues s) : s.cleared = s := by
  obtain ⟨cfg, crc, ⟨matched, err, valid, ill, lastf⟩, quot, rem, divr, pending, readout⟩ := s
  obtain ⟨rfl, rfl, rfl, rfl, rfl, rfl, rfl, rfl, rfl⟩ := h
  rfl

/-- Settles O31: CLEAR's effect is `State.cleared`, and after any other command a set ERR or ILL is still set. -/
theorem clearReturnsEveryRegisterToReset : Obligations.ClearReturnsEveryRegisterToReset := by
  refine ⟨fun w h => decodeWord_clear h, rfl, fun s => CommandEffect.clear.exec, fun i s t h hcleared => ?_,
    fun s hs => ?_⟩
  · by_contra hi
    obtain ⟨herr, hill⟩ := (exec_eq_next_iff.mp h).sticky hi
    rcases hcleared with ⟨hs, ht⟩ | ⟨hs, ht⟩
    · exact Bool.eq_false_iff.mp ht (herr hs)
    · exact Bool.eq_false_iff.mp ht (hill hs)
  · calc exec .clear s = .next s.cleared := CommandEffect.clear.exec
      _ = .next s := by rw [hs.cleared_eq_self]

end Sys2Proof.Machine

/-! PROOFS, family 60_exceptions: the block never stops, and the two conditions a command can report (spec
60_exceptions.md R87 to R95). An accepted event has a step that leaves the other pending accesses as they are; a raised
ILL commutes with every command but CLEAR; ERR and ILL after a word are read off its decoded instruction. -/

namespace Sys2Proof.Machine

/-! ### Safe runs -/

theorem CommandEffect.pending_eq {s t : State} {i : Instr} (h : CommandEffect s i t) : t.pending = s.pending := by
  cases h <;> rfl

theorem EventEffect.pending_eq {s t : State} {e : HostEvent} (h : EventEffect s e t) : t.pending = s.pending := by
  cases h with
  | command hi => exact hi.pending_eq
  | ignoredWrite | read | reset => rfl

/-- The block performs every event it accepts (20_memory.md R41; 60_exceptions.md R87). -/
theorem exists_perform_eq_next {e : HostEvent} {s : State} (h : e.Accepted s.cfg) : ∃ t, perform e s = .next t := by
  cases e with
  | read addr width =>
    obtain ⟨haccepted, -⟩ := exactlyTheAlignedWordAccessesInTheWindowAreAccepted s addr width 0#32
    obtain ⟨hread, -⟩ := haccepted h
    exact hread
  | write addr width w =>
    obtain ⟨haccepted, -⟩ := exactlyTheAlignedWordAccessesInTheWindowAreAccepted s addr width w
    obtain ⟨-, hwrite⟩ := haccepted h
    exact hwrite
  | reset => exact ⟨_, rfl⟩

/-- A safe run has a next step, and is still safe after it: no event changes BASE or the accesses behind it. -/
theorem SafeRun.exists_step {s : State} (h : SafeRun s) : ∃ t, step s = .next t ∧ SafeRun t := by
  cases hp : s.pending with
  | nil => exact ⟨s, step_idle hp, h⟩
  | cons e rest =>
    rw [SafeRun, hp] at h
    obtain ⟨he, hrest⟩ := List.forall_mem_cons.mp h
    obtain ⟨t, ht⟩ := exists_perform_eq_next (s := s.setPending rest) he
    have heff := eventEffect_of_perform ht
    refine ⟨t, (step_of_pending hp).trans ht, ?_⟩
    rw [SafeRun, heff.pending_eq, heff.cfg_eq]
    exact hrest

/-- Settles O7, by induction over the number of steps. -/
theorem safeRunsNeverStop : Obligations.SafeRunsNeverStop := by
  intro n
  induction n with
  | zero => exact fun s _ => ⟨s, run_zero s⟩
  | succ n ih =>
    intro s hs
    obtain ⟨t, hstep, ht⟩ := hs.exists_step
    rw [run_succ_of_next hstep]
    exact ih t ht

/-! ### A raised ILL -/

/-- A command other than CLEAR does the same with ILL raised before it (60_exceptions.md R91). -/
theorem CommandEffect.raiseIll {s t : State} {i : Instr} (h : CommandEffect s i t) (hi : i ≠ .clear) :
    CommandEffect s.raiseIll i t.raiseIll := by
  cases h with
  | nop => exact .nop
  | crcInit => exact .crcInit
  | crcByte l => exact .crcByte l
  | crcWord d => exact .crcWord d
  | crcCheck c => exact .crcCheck c
  | scale d hf => exact .scale d hf
  | scaleReserved d hf => exact .scaleReserved d hf
  | fieldMatch hf hc => exact .fieldMatch hf hc
  | fieldMismatch hf hc => exact .fieldMismatch hf hc
  | fieldReserved c d hf => exact .fieldReserved c d hf
  | clear => exact absurd rfl hi
  | reserved op => exact .reserved op

/-- Settles O33: raising ILL commutes with every command but CLEAR. -/
theorem raisedIllDoesNotDisturbLaterCommands : Obligations.RaisedIllDoesNotDisturbLaterCommands :=
  ⟨raiseIll_eq, fun _ _ _ hi h => ((exec_eq_next_iff.mp h).raiseIll hi).exec⟩

/-! ### ERR and ILL after a command word -/

/-- ERR and ILL hold what earlier commands raised and what this word raises, and CLEAR empties both (R94). -/
theorem CommandEffect.err_ill_iff {s t : State} {w : Word} (h : CommandEffect s (decodeWord w) t) :
    (t.status.err = true ↔ opField w ≠ 7#4 ∧ (s.status.err = true ∨ CompareFails w s)) ∧
    (t.status.ill = true ↔ opField w ≠ 7#4 ∧ (s.status.ill = true ∨ ReservedWord w)) := by
  have hd := decodesTo_decodeWord w
  by_cases h7 : opField w = 7#4
  · rw [decodeWord_clear h7] at h
    rw [h.eq_cleared]
    exact ⟨iff_of_false Bool.false_ne_true fun ⟨hne, _⟩ => hne h7,
      iff_of_false Bool.false_ne_true fun ⟨hne, _⟩ => hne h7⟩
  · have hi : decodeWord w ≠ .clear := mt hd.eq_clear_iff.mp h7
    rw [h.err_eq hi, h.ill_eq hi, hd.compareFails_iff, hd.reservedWord_iff]
    simp [h7]

/-- Settles O42: every word has an effect, and `CommandEffect.err_ill_iff` says both bits of it. -/
theorem statusShowsTheConditionsRaisedAndTheStickyBits :
    Obligations.StatusShowsTheConditionsRaisedAndTheStickyBits := by
  intro w s
  obtain ⟨t, h⟩ := exists_commandEffect (decodeWord w) s
  exact ⟨t, h.exec, h.err_ill_iff⟩

/-- Settles O43: a word that turns ILL on is reserved, and a reserved word only raises ILL. -/
theorem oneCommandReportsIllOrMismatchNeverBoth : Obligations.OneCommandReportsIllOrMismatchNeverBoth := by
  intro w s
  obtain ⟨t, h⟩ := exists_commandEffect (decodeWord w) s
  have hkeeps (hw : ReservedWord w) :
      t.status.matched = s.status.matched ∧ t.status.err = s.status.err ∧ t.crc = s.crc := by
    rw [h.eq_raiseIll ((decodesTo_decodeWord w).reservedWord_iff.mp hw)]
    exact ⟨rfl, rfl, rfl⟩
  refine ⟨t, h.exec, ?_, hkeeps⟩
  rintro ⟨hsill, hserr, htill, hterr⟩
  obtain ⟨-, hill_iff⟩ := h.err_ill_iff
  obtain ⟨-, hraised⟩ := hill_iff.mp htill
  have hw : ReservedWord w := hraised.resolve_left (Bool.eq_false_iff.mp hsill)
  obtain ⟨-, herr, -⟩ := hkeeps hw
  exact Bool.eq_false_iff.mp hserr (herr.symm.trans hterr)

end Sys2Proof.Machine
